-- ==== Sys2Proof/Word.lean ====
section
/-! DEFINITION. The bit-vector widths of the machine (spec/00_scope.md R6 and R7, spec/10_state.md, spec/30_encoding.md R71).

Every value is an unsigned number of a stated width; bit 0 is the least significant bit. -/

namespace Sys2Proof

/-- A memory byte, a general register, a timer or the immediate field NN (R20, R26, R31, R71). -/
abbrev Byte := BitVec 8

/-- An instruction word, the program counter, the index register or a return address (R22, R23, R24, R70). -/
abbrev Word := BitVec 16

/-- The 12-bit address field NNN (R71). -/
abbrev Addr := BitVec 12

/-- A 4-bit field: the high nibble `op`, or the sprite height N (R71). -/
abbrev Nibble := BitVec 4

/-- The name of a general register, V0 to VF: the field X or Y (R20, R71). -/
abbrev Reg := BitVec 4

/-- VF, the register that doubles as the carry, borrow and collision flag (R21). -/
abbrev Reg.vf : Reg := 0xF#4

/-- V0, the register that BNNN adds to its address (R108). -/
abbrev Reg.v0 : Reg := 0x0#4

/-- The number of pixels of the 64 by 32 display (R27). -/
abbrev pixelCount : Nat := 2048

/-- A flag as the byte 0 or 1 that VF receives (R21). -/
def Byte.ofBool (b : Bool) : Byte := if b then 1#8 else 0#8

end Sys2Proof
end

