-- ==== Sys2Proof/Config.lean ====
section
/-! DEFINITION. What is fixed for one machine (spec/00_scope.md R5) and the free values no proof can see.

The four open parameters are plain data, so a `Config` can be written out. The values this model's reset machine is
built with stand in Machine/Defaults.lean. -/

namespace Sys2Proof

/-- `VF_ORDER`: which of its two writes VF keeps when a flag-writing instruction has X = F
(spec/42_alu.md R121). -/
inductive VfOrder where
  /-- The flag is written first, then the result: VF keeps the result. -/
  | tableOrder
  /-- The result is written first, then the flag: VF keeps the flag. -/
  | flagLast
  deriving DecidableEq, Repr

/-- `UNSPEC_ENCODING`: what a word that the source gives no meaning does (spec/30_encoding.md R76). -/
inductive UnspecEncoding where
  /-- The step is refused and changes no state. -/
  | refuse
  /-- The word is a no-op. -/
  | nop
  deriving DecidableEq, Repr

/-- `KEY_INDEX_POLICY`: what EX9E and EXA1 read for a key index of 16 or more (spec/45_keys_timers.md R170).
The first three are the spec's; `anyValue` is this model's own (DESIGN CHOICE, log entry 5). -/
inductive KeyIndexPolicy where
  /-- The step is refused and changes no state. -/
  | refuse
  /-- The key read is that of the index's low four bits. -/
  | lowNibble
  /-- The key reads as not pressed. -/
  | notPressed
  /-- The key reads as a free value: pressed or not, and nothing says which (DESIGN CHOICE, log entry 5). -/
  | anyValue
  deriving DecidableEq, Repr

/-- The open parameters of spec/00_scope.md R5. -/
structure Config where
  /-- `FONT`: the 80 bytes that reset places at 0x000 to 0x04F (spec/70_reset_and_hazards.md R211). -/
  font : Vector Byte 80
  vfOrder : VfOrder
  unspecEncoding : UnspecEncoding
  keyIndexPolicy : KeyIndexPolicy
  deriving DecidableEq, Repr

/-- `draw_byte()`: the free input of CXNN, any byte at each execution and under no law (spec/42_alu.md R134).
It is applied to `State.freeCount`, which each draw advances (DESIGN CHOICE, log entry 6). -/
opaque Config.drawByte : Nat → Byte

/-- What a keypad read at an index of 16 or more gives under `KeyIndexPolicy.anyValue`, for the count of free values
taken so far and the index: no source says (R170; DESIGN CHOICE, log entry 5). -/
opaque Config.keyBeyond : Nat → Byte → Bool

end Sys2Proof
end

