-- ==== Sys2Proof/Machine/Defaults.lean ====
section
/-! DEFINITION. The configuration the reset machine of this model is built with (spec/00_scope.md R5).

Every statement about every state holds for every configuration; only runs from `State.reset` have this one. -/

namespace Sys2Proof.Machine

/-- The conventional font of spec/70_reset_and_hazards.md R211, glyphs 0 to F of five bytes each.
PRESUMED: the source does not give the bytes (log entry 2). -/
def defaultFont : Vector Byte 80 :=
  #v[0xF0, 0x90, 0x90, 0x90, 0xF0,
     0x20, 0x60, 0x20, 0x20, 0x70,
     0xF0, 0x10, 0xF0, 0x80, 0xF0,
     0xF0, 0x10, 0xF0, 0x10, 0xF0,
     0x90, 0x90, 0xF0, 0x10, 0x10,
     0xF0, 0x80, 0xF0, 0x10, 0xF0,
     0xF0, 0x80, 0xF0, 0x90, 0xF0,
     0xF0, 0x10, 0x20, 0x40, 0x40,
     0xF0, 0x90, 0xF0, 0x90, 0xF0,
     0xF0, 0x90, 0xF0, 0x10, 0xF0,
     0xF0, 0x90, 0xF0, 0x90, 0x90,
     0xE0, 0x90, 0xE0, 0x90, 0xE0,
     0xF0, 0x80, 0x80, 0x80, 0xF0,
     0xE0, 0x90, 0x90, 0x90, 0xE0,
     0xF0, 0x80, 0xF0, 0x80, 0xF0,
     0xF0, 0x80, 0xF0, 0x80, 0x80]

/-- VF_ORDER as the spec's default has it (R121; DESIGN CHOICE, log entry 3). UNSPEC_ENCODING is the effect the spec
allows, not its default refusal (R76; DESIGN CHOICE, log entry 4). A key index past the keypad reads as a free value,
not as the spec's default refusal (R170; DESIGN CHOICE, log entry 5). -/
def defaultConfig : Config :=
  { font := defaultFont, vfOrder := .tableOrder, unspecEncoding := .nop, keyIndexPolicy := .anyValue }

end Sys2Proof.Machine
end

