-- ==== Sys2Proof/Syntax.lean ====
section
/-! DEFINITION. The instructions: one constructor for each of the 46 rows of spec/opcode_table.json, in the table's order.

The first 35 are the base set (spec/00_scope.md R2). The next eight are the no-op rows of families 8 and F
(spec/30_encoding.md R74, R75), the last three the rows of the words the source gives no meaning (R76).
A constructor holds the fields its row names, each of its own width (R71); a field that an instruction encodes and
does not read (Y of SHR and SHL) is held too, so that no bit of an encoding is lost. -/

namespace Sys2Proof

inductive Instr where
  /-- 00E0 CLS (R160). -/
  | cls
  /-- 00EE RET (R100). -/
  | ret
  /-- 0NNN SYS addr (R101), for every NNN but 0x0E0 and 0x0EE (R78). -/
  | sys (nnn : Addr)
  /-- 1NNN JP addr (R102). -/
  | jp (nnn : Addr)
  /-- 2NNN CALL addr (R103). -/
  | call (nnn : Addr)
  /-- 3XNN SE Vx, byte (R104). -/
  | seImm (x : Reg) (nn : Byte)
  /-- 4XNN SNE Vx, byte (R105). -/
  | sneImm (x : Reg) (nn : Byte)
  /-- 5XY0 SE Vx, Vy (R106). -/
  | seReg (x y : Reg)
  /-- 6XNN LD Vx, byte (R122). -/
  | ldImm (x : Reg) (nn : Byte)
  /-- 7XNN ADD Vx, byte (R123). -/
  | addImm (x : Reg) (nn : Byte)
  /-- 8XY0 LD Vx, Vy (R124). -/
  | ldReg (x y : Reg)
  /-- 8XY1 OR Vx, Vy (R125). -/
  | orReg (x y : Reg)
  /-- 8XY2 AND Vx, Vy (R126). -/
  | andReg (x y : Reg)
  /-- 8XY3 XOR Vx, Vy (R127). -/
  | xorReg (x y : Reg)
  /-- 8XY4 ADD Vx, Vy (R128). -/
  | addReg (x y : Reg)
  /-- 8XY5 SUB Vx, Vy (R129). -/
  | sub (x y : Reg)
  /-- 8XY6 SHR Vx, Vy (R130). -/
  | shr (x y : Reg)
  /-- 8XY7 SUBN Vx, Vy (R131). -/
  | subn (x y : Reg)
  /-- 8XYE SHL Vx, Vy (R132). -/
  | shl (x y : Reg)
  /-- 9XY0 SNE Vx, Vy (R107). -/
  | sneReg (x y : Reg)
  /-- ANNN LD I, addr (R140). -/
  | ldI (nnn : Addr)
  /-- BNNN JP V0, addr (R108). -/
  | jpV0 (nnn : Addr)
  /-- CXNN RND Vx, byte (R133). -/
  | rnd (x : Reg) (nn : Byte)
  /-- DXYN DRW Vx, Vy, nibble (R161). -/
  | drw (x y : Reg) (n : Nibble)
  /-- EX9E SKP Vx (R171). -/
  | skp (x : Reg)
  /-- EXA1 SKNP Vx (R172). -/
  | sknp (x : Reg)
  /-- FX07 LD Vx, DT (R173). -/
  | ldVxDt (x : Reg)
  /-- FX0A LD Vx, K (R174). -/
  | ldVxK (x : Reg)
  /-- FX15 LD DT, Vx (R175). -/
  | ldDtVx (x : Reg)
  /-- FX18 LD ST, Vx (R176). -/
  | ldStVx (x : Reg)
  /-- FX1E ADD I, Vx (R141). -/
  | addI (x : Reg)
  /-- FX29 LD F, Vx (R142). -/
  | ldF (x : Reg)
  /-- FX33 LD B, Vx (R143). -/
  | ldB (x : Reg)
  /-- FX55 LD [I], Vx (R144). -/
  | ldMemVx (x : Reg)
  /-- FX65 LD Vx, [I] (R145). -/
  | ldVxMem (x : Reg)
  /-- 8XY8, a no-op (R74). -/
  | nop88 (x y : Reg)
  /-- 8XY9, a no-op (R74). -/
  | nop89 (x y : Reg)
  /-- 8XYA, a no-op (R74). -/
  | nop8A (x y : Reg)
  /-- 8XYB, a no-op (R74). -/
  | nop8B (x y : Reg)
  /-- 8XYC, a no-op (R74). -/
  | nop8C (x y : Reg)
  /-- 8XYD, a no-op (R74). -/
  | nop8D (x y : Reg)
  /-- 8XYF, a no-op (R74). -/
  | nop8F (x y : Reg)
  /-- FXNN with NN none of the nine low bytes of the F family, a no-op (R75). -/
  | nopF (x : Reg) (nn : Byte)
  /-- 5XYN with N ≠ 0, a word the source gives no meaning (R76). -/
  | unspec5 (x y : Reg) (n : Nibble)
  /-- 9XYN with N ≠ 0, a word the source gives no meaning (R76). -/
  | unspec9 (x y : Reg) (n : Nibble)
  /-- EXNN with NN other than 9E and A1, a word the source gives no meaning (R76). -/
  | unspecE (x : Reg) (nn : Byte)
  deriving DecidableEq, Repr

end Sys2Proof
end

