-- ==== Sys2Proof/Machine/State.lean ====
section
/-! DEFINITION. The state of the block (spec/10_state.md), what can stop a step, and the state after reset. -/

namespace Sys2Proof.Machine

/-- The memory of 4096 bytes (R31): the bytes that differ from their reset contents, by rising address.
An unlisted address reads as `resetByte` of Machine/Memory.lean. -/
abbrev Memory := List Host.Cell

/-- The state: the twelve elements of spec/10_state.md section 12, then the model's own two. -/
structure State where
  /-- V0 to VF (R20). -/
  regs : Vector Byte 16
  /-- The index register (R22). -/
  I : Word
  /-- The program counter: during an instruction, that instruction's own address (R23). -/
  pc : Word
  /-- The return stack (R24). -/
  stack : Vector Word 16
  /-- The number of live entries of the return stack, 0 to 16 (R24, R25). -/
  sp : Fin 17
  /-- The delay timer (R26). -/
  dt : Byte
  /-- The sound timer (R26). -/
  st : Byte
  /-- The display: bit `x + 64 * y` is the pixel at column x and row y (R27). -/
  display : BitVec pixelCount
  /-- The keypad latch, true meaning pressed (R28). -/
  keypad : Vector Bool 16
  /-- The draw flag (R29). -/
  drawPending : Bool
  /-- The register that a key-wait will write, when the machine is waiting for a key (R30). -/
  waiting : Option Reg
  /-- The memory (R31). -/
  memory : Memory
  /-- The open parameters, which nothing changes. The model's own field (R5, R32; log entry 1). -/
  config : Config
  /-- How many free values have been taken. The model's own field (R134; log entry 6). -/
  freeCount : Nat
  deriving DecidableEq, Repr

/-- The typed fatal results (spec/60_exceptions.md R180, R181). None of them changes any state (R97, R182). -/
inductive Fault where
  /-- Raised by the host's `loadProgram`, and by no step, for a program of `length` > 3584 bytes (R212).
  Safe: the spec's own result. -/
  | programTooLarge (length : Nat)
  /-- Raised by 2NNN at `pc` when 16 return addresses are live (R103). Safe: the spec's own result. -/
  | stackOverflow (pc : Word)
  /-- Raised by 00EE at `pc` when no return address is live (R100). Safe: the spec's own result. -/
  | stackUnderflow (pc : Word)
  /-- Raised by the fetch when `pc` > 0xFFE (R92). Safe: the spec's own result. -/
  | fatalTrap (pc : Word)
  deriving DecidableEq, Repr

/-- Why a step has no meaning (spec/40_cycle.md R98). None of them changes any state. -/
inductive Refusal where
  /-- Raised by an arm of `exec` whose instruction has no meaning yet; no arm is one. Safe. -/
  | notModelled (mnemonic : String)
  /-- Raised by 5XYN, 9XYN and EXNN words that the source gives no meaning, under `UnspecEncoding.refuse` (R76).
  Safe: no claim is proved past it. -/
  | unspecifiedEncoding (pc : Word)
  /-- Raised by EX9E and EXA1 for a key index of 16 or more, under `KeyIndexPolicy.refuse` (R170).
  Safe: no claim is proved past it. -/
  | keyIndexOutOfRange (pc : Word)
  deriving DecidableEq, Repr

/-- What an instruction answers. -/
abbrev Result := Host.Outcome State Fault Refusal

/-- The state after reset (R20 to R31, spec/70_reset_and_hazards.md R210). Memory lists nothing: it holds its reset
contents, the font at 0x000 to 0x04F and 0 elsewhere. -/
def State.reset : State :=
  { regs := Vector.replicate 16 0#8
    I := 0#16
    pc := 0x200#16
    stack := Vector.replicate 16 0#16
    sp := 0
    dt := 0#8
    st := 0#8
    display := 0#pixelCount
    keypad := Vector.replicate 16 false
    drawPending := true
    waiting := none
    memory := []
    config := defaultConfig
    freeCount := 0 }

end Sys2Proof.Machine
end

