-- ==== Sys2Proof/Machine/Memory.lean ====
section
/-! DEFINITION. The memory as data: reading and writing one byte (spec/20_memory.md R50), and the canonical form. -/

namespace Sys2Proof.Machine

/-- What address `a` holds after reset, and so what an unlisted address reads as: the font at 0x000 to 0x04F and 0
elsewhere (R57, spec/70_reset_and_hazards.md R210, R211). -/
def resetByte (c : Config) (a : Nat) : Byte := if h : a < 80 then c.font[a] else 0#8

/-- The byte listed at an address. -/
def Memory.lookup : Memory → Nat → Option Byte
  | [], _ => none
  | (b, v) :: m, a => if a = b then some v else Memory.lookup m a

/-- `MemRead(a, 1)` (R50). -/
def Memory.read (c : Config) (m : Memory) (a : Nat) : Byte := (Memory.lookup m a).getD (resetByte c a)

/-- The list without entries at `a`. -/
def Memory.erase : Memory → Nat → Memory
  | [], _ => []
  | (b, w) :: m, a => if a = b then Memory.erase m a else (b, w) :: Memory.erase m a

/-- The list with the entry `(a, v)` in its place by rising address. -/
def Memory.insert : Memory → Nat → Byte → Memory
  | [], a, v => [(a, v)]
  | (b, w) :: m, a, v =>
    if a < b then (a, v) :: (b, w) :: m
    else if a = b then (a, v) :: m
    else (b, w) :: Memory.insert m a v

/-- `MemWrite(a, 1, v)` (R50). Writing what the address reads as unlisted takes its entry out, so that equal
memories are equal data. -/
def Memory.write (c : Config) (m : Memory) (a : Nat) (v : Byte) : Memory :=
  if v = resetByte c a then Memory.erase m a else Memory.insert m a v

/-- Write `bytes` at the addresses `place k`, `place (k + 1)`, and so on, in that order (R59). -/
def Memory.writeAll (c : Config) (place : Nat → Nat) : Nat → List Byte → Memory → Memory
  | _, [], m => m
  | k, v :: vs, m => Memory.writeAll c place (k + 1) vs (Memory.write c m (place k) v)

/-- The canonical form: addresses below 0x1000 (R31) and strictly rising, and no entry equal to what its address reads
as unlisted. -/
abbrev Memory.wf (c : Config) (m : Memory) : Prop :=
  m.Pairwise (fun e f => e.1 < f.1) ∧ ∀ e ∈ m, e.1 < 0x1000 ∧ e.2 ≠ resetByte c e.1

end Sys2Proof.Machine
end

