-- ==== Sys2Proof/Machine/Ops.lean ====
section
/-! DEFINITION. The named operations the meanings are made of: registers, memory, stack, free values, the end of an
instruction (spec/40_cycle.md R95) and the fatal results (spec/60_exceptions.md R180 to R183). -/

namespace Sys2Proof.Machine

/-! ## General registers (R20) -/

/-- `x[r]`. -/
def State.reg (s : State) (r : Reg) : Byte := s.regs[r.toNat]'r.isLt

/-- `x[r] <- v`. -/
def State.setReg (s : State) (r : Reg) (v : Byte) : State := { s with regs := s.regs.set r.toNat v r.isLt }

/-! ## The single-field writes -/

/-- Write the whole register file at once (FX65). -/
def State.setRegs (s : State) (v : Vector Byte 16) : State := { s with regs := v }

/-- `I <- v` (R22). -/
def State.setI (s : State) (v : Word) : State := { s with I := v }

/-- `pc <- v` (R23). -/
def State.setPc (s : State) (v : Word) : State := { s with pc := v }

/-- `dt <- v` (R26). -/
def State.setDt (s : State) (v : Byte) : State := { s with dt := v }

/-- `st <- v` (R26). -/
def State.setSt (s : State) (v : Byte) : State := { s with st := v }

/-- Write the display (R27). -/
def State.setDisplay (s : State) (v : BitVec pixelCount) : State := { s with display := v }

/-- `drawPending <- v` (R29). -/
def State.setDrawPending (s : State) (v : Bool) : State := { s with drawPending := v }

/-- `waiting <- v` (R30). -/
def State.setWaiting (s : State) (v : Option Reg) : State := { s with waiting := v }

/-- `keypad <- v`: the host's write (R28, R191). -/
def State.setKeypad (s : State) (v : Vector Bool 16) : State := { s with keypad := v }

/-- Write the memory (R31). -/
def State.setMemory (s : State) (v : Memory) : State := { s with memory := v }

/-- Write the return stack and its pointer (R24). -/
def State.setStack (s : State) (v : Vector Word 16) (n : Fin 17) : State := { s with stack := v, sp := n }

/-- Count one more free value as taken (log entry 6). -/
def State.countFree (s : State) : State := { s with freeCount := s.freeCount + 1 }

/-! ## Memory, display and keypad reads -/

/-- `MemRead(a, 1)` (spec/20_memory.md R50). -/
def State.readByte (s : State) (a : Nat) : Byte := Memory.read s.config s.memory a

/-- The pixel at index `p` (R27). -/
def State.pixel (s : State) (p : Nat) : Bool := s.display.getLsbD p

/-- The key `k` of the latch (R28). -/
def State.key (s : State) (k : Nibble) : Bool := s.keypad[k.toNat]'k.isLt

/-- The least pressed key, "in ascending index order" (spec/40_cycle.md R91). -/
def State.firstPressed (s : State) : Option Nat := s.keypad.toList.findIdx? (fun b => b)

/-! ## The return stack (R24, R25) -/

/-- Push a return address: store at `stack[sp]`, then `sp <- sp + 1`; nothing when 16 entries are live. -/
def State.push (s : State) (a : Word) : Option State :=
  if h : s.sp.val < 16 then
    some (s.setStack (s.stack.set s.sp.val a h) ⟨s.sp.val + 1, by omega⟩)
  else none

/-- Pop a return address: `sp <- sp - 1`, then read `stack[sp]`, which keeps its value; nothing when no entry is
live. -/
def State.pop (s : State) : Option (Word × State) :=
  if h : 0 < s.sp.val then
    some (s.stack[s.sp.val - 1]'(by omega), s.setStack s.stack ⟨s.sp.val - 1, by omega⟩)
  else none

/-! ## The end of an instruction -/

/-- What an instruction asks of phase 5 (spec/40_cycle.md R95). -/
inductive Effect where
  | next
  | skip (taken : Bool)
  | jump (target : Word)
  | wait
  deriving DecidableEq, Repr

/-- The program counter after phase 5, from the instruction's own address (R95). The sum is formed on 16 bits. -/
def Effect.newPc (pc : Word) : Effect → Word
  | .next => pc + 2#16
  | .skip taken => pc + (if taken then 4#16 else 2#16)
  | .jump target => target
  | .wait => pc

/-- Phase 5: the instruction has written its results and the program counter is updated (R95). -/
def complete (e : Effect) (s : State) : Result := .next (s.setPc (e.newPc s.pc))

/-! ## Fatal results and refusals -/

/-- Taking a fatal result: the step ends with the typed result, which records `pc`; nothing is saved, no mode changes,
no handler is entered and no state is written (R97, R181, R182). There is no return from it (R183). -/
def raiseFatal (f : Word → Fault) (s : State) : Result := .fault (f s.pc)

/-- The refusal of an input that the source gives no meaning: it records `pc` and writes no state (R98). -/
def refuse (r : Word → Refusal) (s : State) : Result := .refused (r s.pc)

/-- The number of a fatal result (R180). -/
def Fault.code : Fault → Nat
  | .programTooLarge _ => 1
  | .stackOverflow _ => 2
  | .stackUnderflow _ => 3
  | .fatalTrap _ => 4

/-- The value a fatal result records: the program's length, or `pc` (R181). -/
def Fault.recorded : Fault → Nat
  | .programTooLarge length => length
  | .stackOverflow pc => pc.toNat
  | .stackUnderflow pc => pc.toNat
  | .fatalTrap pc => pc.toNat

/-- What a word without a meaning in the source does: the parameter `UNSPEC_ENCODING`
(spec/30_encoding.md R76). -/
def unspecified (s : State) : Result :=
  match s.config.unspecEncoding with
  | .refuse => refuse .unspecifiedEncoding s
  | .nop => complete .next s

end Sys2Proof.Machine
end

