-- ==== Sys2Proof/Machine/Flags.lean ====
section
/-! DEFINITION. The flag computations (spec/42_alu.md R120) and the write of a flag beside a result (R121). -/

namespace Sys2Proof.Machine

/-- Carry of 8XY4: 1 exactly when the unbounded sum exceeds 255 (R120, R128). -/
def carry (a b : Byte) : Byte := Byte.ofBool (decide (255 < a.toNat + b.toNat))

/-- Not-borrow of 8XY5 and 8XY7: 0 exactly when the minuend is less than the subtrahend (R120, R129, R131). -/
def notBorrow (minuend subtrahend : Byte) : Byte := Byte.ofBool (!decide (minuend.toNat < subtrahend.toNat))

/-- The bit that a shift right by one shifts out (R130). -/
def bitShiftedRight (a : Byte) : Byte := a &&& 1#8

/-- The bit that a shift left by one shifts out (R132). -/
def bitShiftedLeft (a : Byte) : Byte := (a >>> 7) &&& 1#8

/-- `writeFlagAndResult`: the parameter `VF_ORDER` gives the order of the two writes, and so what VF keeps when
X = F (R121). -/
def State.writeFlagAndResult (s : State) (x : Reg) (flag result : Byte) : State :=
  match s.config.vfOrder with
  | .tableOrder => (s.setReg .vf flag).setReg x result
  | .flagLast => (s.setReg x result).setReg .vf flag

end Sys2Proof.Machine
end

