-- ==== Sys2Proof/Machine/Operands.lean ====
section
/-! DEFINITION. The operand forms: data addresses, register images, decimal digits, font glyphs, sprites and keys. -/

namespace Sys2Proof.Machine

/-- `ea(k) = (I + k) & 0xFFF`: the mask is applied to the whole sum (spec/20_memory.md R53). -/
def State.ea (s : State) (k : Nat) : Nat := (s.I.toNat + k) &&& 0xFFF

/-- Store bytes at `ea(0)`, `ea(1)`, and so on (R59). -/
def State.storeAtI (s : State) (bytes : List Byte) : State :=
  s.setMemory (Memory.writeAll s.config s.ea 0 bytes s.memory)

/-- The bytes of V0 to Vx, in register order (spec/43_index_memory.md R144). -/
def State.regsUpTo (s : State) (x : Reg) : List Byte := s.regs.toList.take (x.toNat + 1)

/-- The register file with V0 to Vx read from `ea(0)` to `ea(x)` and the rest as they are (R145). -/
def State.regsFromI (s : State) (x : Reg) : Vector Byte 16 :=
  Vector.ofFn fun k => if k.val ≤ x.toNat then s.readByte (s.ea k.val) else s.regs[k.val]

/-- The decimal digits of a byte, hundreds, tens, ones, each a byte of its own (R143, R146). -/
def bcdDigits (v : Byte) : List Byte := [v / 100#8, v / 10#8 % 10#8, v % 10#8]

/-- The address of the glyph of a byte: the whole byte times 5 (R142). -/
def glyphAddress (v : Byte) : Word := v.setWidth 16 * 5#16

/-- The key read for an index `v`, with the state after the read: the parameter `KEY_INDEX_POLICY` decides past the
keypad's sixteen keys (spec/45_keys_timers.md R170). Only `anyValue` changes the state: it takes a free value
(DESIGN CHOICE, log entry 5). -/
def State.readKey (s : State) (v : Byte) : Except Refusal (Bool × State) :=
  if v.toNat ≤ 15 then .ok (s.key (v.setWidth 4), s)
  else match s.config.keyIndexPolicy with
    | .refuse => .error (.keyIndexOutOfRange s.pc)
    | .lowNibble => .ok (s.key (v.setWidth 4), s)
    | .notPressed => .ok (false, s)
    | .anyValue => .ok (Config.keyBeyond s.freeCount v, s.countFree)

/-- A draw in progress: the display, and whether a pixel has gone from set to unset. -/
structure Canvas where
  display : BitVec pixelCount
  collision : Bool
  deriving DecidableEq, Repr

/-- Toggle the pixel at a column and a row; a pixel outside the screen is not drawn (spec/44_display.md R161), and a
pixel that was 1 is a collision (R162). -/
def Canvas.toggle (c : Canvas) (col row : Nat) : Canvas :=
  if col < 64 ∧ row < 32 then
    { display := c.display ^^^ (1#pixelCount <<< (col + 64 * row))
      collision := c.collision || c.display.getLsbD (col + 64 * row) }
  else c

/-- Draw one sprite row of eight bits, most significant first, from column `x0` (R161). -/
def Canvas.drawRow (c : Canvas) (bits : Byte) (x0 row : Nat) : Canvas :=
  (List.range 8).foldl (fun c b => if bits.getLsbD (7 - b) then c.toggle (x0 + b) row else c) c

/-- The column a sprite starts at (R161). -/
def State.spriteCol (s : State) (x : Reg) : Nat := (s.reg x).toNat % 64

/-- The row a sprite starts at (R161). -/
def State.spriteRow (s : State) (y : Reg) : Nat := (s.reg y).toNat % 32

/-- Draw the `n` rows read from `ea(0)` to `ea(n - 1)` on the state's display (R161). -/
def State.drawSprite (s : State) (x y : Reg) (n : Nibble) : Canvas :=
  (List.range n.toNat).foldl
    (fun c r => c.drawRow (s.readByte (s.ea r)) (s.spriteCol x) (s.spriteRow y + r))
    { display := s.display, collision := false }

end Sys2Proof.Machine
end

