-- ==== Sys2Proof/Machine/Alu.lean ====
section
/-! DEFINITION. Register arithmetic and logic (spec/42_alu.md). Results wrap modulo 256 (R120). -/

namespace Sys2Proof.Machine

/-- 6XNN LD Vx, byte (R122). -/
def execLdImm (x : Reg) (nn : Byte) (s : State) : Result := complete .next (s.setReg x nn)

/-- 7XNN ADD Vx, byte: no flag (R123). -/
def execAddImm (x : Reg) (nn : Byte) (s : State) : Result := complete .next (s.setReg x (s.reg x + nn))

/-- 8XY0 LD Vx, Vy (R124). -/
def execLdReg (x y : Reg) (s : State) : Result := complete .next (s.setReg x (s.reg y))

/-- 8XY1 OR Vx, Vy: no flag (R125). -/
def execOrReg (x y : Reg) (s : State) : Result := complete .next (s.setReg x (s.reg x ||| s.reg y))

/-- 8XY2 AND Vx, Vy: no flag (R126). -/
def execAndReg (x y : Reg) (s : State) : Result := complete .next (s.setReg x (s.reg x &&& s.reg y))

/-- 8XY3 XOR Vx, Vy: no flag (R127). -/
def execXorReg (x y : Reg) (s : State) : Result := complete .next (s.setReg x (s.reg x ^^^ s.reg y))

/-- 8XY4 ADD Vx, Vy with carry (R128). -/
def execAddReg (x y : Reg) (s : State) : Result :=
  complete .next (s.writeFlagAndResult x (carry (s.reg x) (s.reg y)) (s.reg x + s.reg y))

/-- 8XY5 SUB Vx, Vy: Vx minus Vy, with not-borrow (R129). -/
def execSub (x y : Reg) (s : State) : Result :=
  complete .next (s.writeFlagAndResult x (notBorrow (s.reg x) (s.reg y)) (s.reg x - s.reg y))

/-- 8XY6 SHR Vx: Y is encoded and not read (R130). -/
def execShr (x _y : Reg) (s : State) : Result :=
  complete .next (s.writeFlagAndResult x (bitShiftedRight (s.reg x)) (s.reg x >>> 1))

/-- 8XY7 SUBN Vx, Vy: Vy minus Vx, with not-borrow (R131). -/
def execSubn (x y : Reg) (s : State) : Result :=
  complete .next (s.writeFlagAndResult x (notBorrow (s.reg y) (s.reg x)) (s.reg y - s.reg x))

/-- 8XYE SHL Vx: Y is encoded and not read (R132). -/
def execShl (x _y : Reg) (s : State) : Result :=
  complete .next (s.writeFlagAndResult x (bitShiftedLeft (s.reg x)) (s.reg x <<< 1))

/-- CXNN RND Vx, byte: a free byte, masked (R133, R134; log entry 6). -/
def execRnd (x : Reg) (nn : Byte) (s : State) : Result :=
  complete .next ((s.setReg x (Config.drawByte s.freeCount &&& nn)).countFree)

end Sys2Proof.Machine
end

