-- ==== Sys2Proof/Machine/Control.lean ====
section
/-! DEFINITION. Control transfer and skips (spec/41_control.md). -/

namespace Sys2Proof.Machine

/-- 00EE RET (R100). -/
def execRet (s : State) : Result :=
  match s.pop with
  | none => raiseFatal .stackUnderflow s
  | some (target, s') => complete (.jump target) s'

/-- 0NNN SYS addr, "treated as a jump" (R101). -/
def execSys (nnn : Addr) (s : State) : Result := complete (.jump (nnn.setWidth 16)) s

/-- 1NNN JP addr (R102). -/
def execJp (nnn : Addr) (s : State) : Result := complete (.jump (nnn.setWidth 16)) s

/-- 2NNN CALL addr: the address after the CALL is pushed (R103). -/
def execCall (nnn : Addr) (s : State) : Result :=
  match s.push (s.pc + 2#16) with
  | none => raiseFatal .stackOverflow s
  | some s' => complete (.jump (nnn.setWidth 16)) s'

/-- 3XNN SE Vx, byte (R104). -/
def execSeImm (x : Reg) (nn : Byte) (s : State) : Result := complete (.skip (s.reg x == nn)) s

/-- 4XNN SNE Vx, byte (R105). -/
def execSneImm (x : Reg) (nn : Byte) (s : State) : Result := complete (.skip (s.reg x != nn)) s

/-- 5XY0 SE Vx, Vy (R106). -/
def execSeReg (x y : Reg) (s : State) : Result := complete (.skip (s.reg x == s.reg y)) s

/-- 9XY0 SNE Vx, Vy (R107). -/
def execSneReg (x y : Reg) (s : State) : Result := complete (.skip (s.reg x != s.reg y)) s

/-- BNNN JP V0, addr: the sum is formed on 16 bits and not masked (R108). -/
def execJpV0 (nnn : Addr) (s : State) : Result :=
  complete (.jump (nnn.setWidth 16 + (s.reg .v0).setWidth 16)) s

end Sys2Proof.Machine
end

