-- ==== Sys2Proof/Machine/Display.lean ====
section
/-! DEFINITION. The display buffer and the sprite collision detector (spec/44_display.md). -/

namespace Sys2Proof.Machine

/-- 00E0 CLS: the draw flag is set even when the display was blank (R160, R163). -/
def execCls (s : State) : Result := complete .next ((s.setDisplay 0#pixelCount).setDrawPending true)

/-- DXYN DRW Vx, Vy, nibble: VF is written once, at the end, with the collision over the whole sprite, and the draw
flag is set whether or not a pixel changed (R161, R162, R163). -/
def execDrw (x y : Reg) (n : Nibble) (s : State) : Result :=
  complete .next
    (((s.setDisplay (s.drawSprite x y n).display).setReg .vf
      (Byte.ofBool (s.drawSprite x y n).collision)).setDrawPending true)

end Sys2Proof.Machine
end

