-- ==== Sys2Proof/Machine/IndexMemory.lean ====
section
/-! DEFINITION. Index register, BCD unit and memory transfers (spec/43_index_memory.md). -/

namespace Sys2Proof.Machine

/-- ANNN LD I, addr (R140). -/
def execLdI (nnn : Addr) (s : State) : Result := complete .next (s.setI (nnn.setWidth 16))

/-- FX1E ADD I, Vx: modulo 65536 and not masked in storage; no flag (R141). -/
def execAddI (x : Reg) (s : State) : Result := complete .next (s.setI (s.I + (s.reg x).setWidth 16))

/-- FX29 LD F, Vx (R142). -/
def execLdF (x : Reg) (s : State) : Result := complete .next (s.setI (glyphAddress (s.reg x)))

/-- FX33 LD B, Vx (R143). -/
def execLdB (x : Reg) (s : State) : Result := complete .next (s.storeAtI (bcdDigits (s.reg x)))

/-- FX55 LD [I], Vx: `I` is unchanged (R144). -/
def execLdMemVx (x : Reg) (s : State) : Result := complete .next (s.storeAtI (s.regsUpTo x))

/-- FX65 LD Vx, [I]: `I` is unchanged (R145). -/
def execLdVxMem (x : Reg) (s : State) : Result := complete .next (s.setRegs (s.regsFromI x))

end Sys2Proof.Machine
end

