-- ==== Sys2Proof/Machine/KeysTimers.lean ====
section
/-! DEFINITION. Keypad latch and timer access (spec/45_keys_timers.md), and the key-wait phase of a step
(spec/40_cycle.md R91). -/

namespace Sys2Proof.Machine

/-- EX9E SKP Vx (R171). -/
def execSkp (x : Reg) (s : State) : Result :=
  match s.readKey (s.reg x) with
  | .error r => .refused r
  | .ok (pressed, s') => complete (.skip pressed) s'

/-- EXA1 SKNP Vx (R172). -/
def execSknp (x : Reg) (s : State) : Result :=
  match s.readKey (s.reg x) with
  | .error r => .refused r
  | .ok (pressed, s') => complete (.skip (!pressed)) s'

/-- FX07 LD Vx, DT (R173). -/
def execLdVxDt (x : Reg) (s : State) : Result := complete .next (s.setReg x s.dt)

/-- FX0A LD Vx, K: the keypad is not read in this step, and `pc` stays (R174). -/
def execLdVxK (x : Reg) (s : State) : Result := complete .wait (s.setWaiting (some x))

/-- FX15 LD DT, Vx (R175). -/
def execLdDtVx (x : Reg) (s : State) : Result := complete .next (s.setDt (s.reg x))

/-- FX18 LD ST, Vx (R176). -/
def execLdStVx (x : Reg) (s : State) : Result := complete .next (s.setSt (s.reg x))

/-- Phase 1 of a step that waits for register `r`: the least pressed key is stored, the wait ends and `pc` moves past
the FX0A; with no key pressed the step is Blocked and nothing changes (R91; log entry 7). -/
def keyWait (r : Reg) (s : State) : Result :=
  match s.firstPressed with
  | some k => complete .next ((s.setReg r (BitVec.ofNat 8 k)).setWaiting none)
  | none => .next s

end Sys2Proof.Machine
end

