-- ==== Sys2Proof/Machine/NoOps.lean ====
section
/-! DEFINITION. The no-op words of families 8 and F (spec/30_encoding.md R74, R75) and the words the source gives no
meaning (R76). -/

namespace Sys2Proof.Machine

/-- 8XY8 (R74). -/
def execNop88 (_x _y : Reg) (s : State) : Result := complete .next s

/-- 8XY9 (R74). -/
def execNop89 (_x _y : Reg) (s : State) : Result := complete .next s

/-- 8XYA (R74). -/
def execNop8A (_x _y : Reg) (s : State) : Result := complete .next s

/-- 8XYB (R74). -/
def execNop8B (_x _y : Reg) (s : State) : Result := complete .next s

/-- 8XYC (R74). -/
def execNop8C (_x _y : Reg) (s : State) : Result := complete .next s

/-- 8XYD (R74). -/
def execNop8D (_x _y : Reg) (s : State) : Result := complete .next s

/-- 8XYF (R74). -/
def execNop8F (_x _y : Reg) (s : State) : Result := complete .next s

/-- FXNN with NN none of the nine F-family low bytes (R75). -/
def execNopF (_x : Reg) (_nn : Byte) (s : State) : Result := complete .next s

/-- 5XYN with N ≠ 0 (R76). -/
def execUnspec5 (_x _y : Reg) (_n : Nibble) (s : State) : Result := unspecified s

/-- 9XYN with N ≠ 0 (R76). -/
def execUnspec9 (_x _y : Reg) (_n : Nibble) (s : State) : Result := unspecified s

/-- EXNN with NN other than 9E and A1 (R76). -/
def execUnspecE (_x : Reg) (_nn : Byte) (s : State) : Result := unspecified s

end Sys2Proof.Machine
end

