-- ==== Sys2Proof/WellFormed.lean ====
section
/-! DEFINITION. Which terms of `Instr` are instructions.

The fields already have their encodings' widths (spec/30_encoding.md R71), so what is left to check is that a row
that matches "only when no row above matches" is not given a field of such a row (R73, R75, R76, R78). -/

namespace Sys2Proof

/-- The low bytes that select the nine F-family instructions (R73). -/
def fLowBytes : List Byte := [0x07, 0x0A, 0x15, 0x18, 0x1E, 0x29, 0x33, 0x55, 0x65]

/-- The low bytes that select the two E-family instructions (R73). -/
def eLowBytes : List Byte := [0x9E, 0xA1]

/-- The instruction is one that some word decodes to. -/
def Instr.wellFormed : Instr → Bool
  | .sys nnn => nnn != 0x0E0#12 && nnn != 0x0EE#12
  | .nopF _ nn => !fLowBytes.contains nn
  | .unspec5 _ _ n => n != 0#4
  | .unspec9 _ _ n => n != 0#4
  | .unspecE _ nn => !eLowBytes.contains nn
  | .cls | .ret | .jp _ | .call _ | .seImm _ _ | .sneImm _ _ | .seReg _ _ | .ldImm _ _ | .addImm _ _
  | .ldReg _ _ | .orReg _ _ | .andReg _ _ | .xorReg _ _ | .addReg _ _ | .sub _ _ | .shr _ _ | .subn _ _
  | .shl _ _ | .sneReg _ _ | .ldI _ | .jpV0 _ | .rnd _ _ | .drw _ _ _ | .skp _ | .sknp _ | .ldVxDt _
  | .ldVxK _ | .ldDtVx _ | .ldStVx _ | .addI _ | .ldF _ | .ldB _ | .ldMemVx _ | .ldVxMem _
  | .nop88 _ _ | .nop89 _ _ | .nop8A _ _ | .nop8B _ _ | .nop8C _ _ | .nop8D _ _ | .nop8F _ _ => true

end Sys2Proof
end

