-- ==== Sys2Proof/Decode.lean ====
section
/-! DEFINITION. From bytes to instructions and back (spec/30_encoding.md).

Every instruction is one 16-bit big-endian word (R70, spec/20_memory.md R52), and decoding is a total function of the
word (R73, R77). The only bytes that hold no instruction are fewer than two. -/

namespace Sys2Proof

/-! ## Fields of a word (R71) -/

/-- `op = w[15:12]`. -/
def fieldOp (w : Word) : Nibble := w.extractLsb' 12 4

/-- `X = w[11:8]`. -/
def fieldX (w : Word) : Reg := w.extractLsb' 8 4

/-- `Y = w[7:4]`. -/
def fieldY (w : Word) : Reg := w.extractLsb' 4 4

/-- `N = w[3:0]`. -/
def fieldN (w : Word) : Nibble := w.extractLsb' 0 4

/-- `NN = w[7:0]`. -/
def fieldNN (w : Word) : Byte := w.extractLsb' 0 8

/-- `NNN = w[11:0]`. -/
def fieldNNN (w : Word) : Addr := w.extractLsb' 0 12

/-! ## Formats of a word (R72) -/

/-- Format `NNN`. -/
def wordNNN (op : Nibble) (nnn : Addr) : Word := op ++ nnn

/-- Formats `XNN` and `Xff`. -/
def wordXNN (op : Nibble) (x : Reg) (nn : Byte) : Word := op ++ x ++ nn

/-- Formats `XY0`, `XYf` and `XYN`. -/
def wordXYN (op : Nibble) (x y : Reg) (n : Nibble) : Word := op ++ x ++ y ++ n

/-- A word from its two bytes, the first byte the high one (spec/20_memory.md R52). -/
def wordOfBytes (hi lo : Byte) : Word := hi ++ lo

/-- The byte of a word that lies at the lower address (spec/20_memory.md R52). -/
def highByte (w : Word) : Byte := w.extractLsb' 8 8

/-- The byte of a word that lies at the higher address (spec/20_memory.md R52). -/
def lowByte (w : Word) : Byte := w.extractLsb' 0 8

/-! ## The decoder (R73) -/

/-- Family 0: the whole words 00E0 and 00EE are tested before 0NNN (R73, R78). -/
def decode0 (w : Word) : Instr :=
  if w = 0x00E0#16 then .cls else if w = 0x00EE#16 then .ret else .sys (fieldNNN w)

/-- Family 5 (R73, R76). -/
def decode5 (w : Word) : Instr :=
  if fieldN w = 0#4 then .seReg (fieldX w) (fieldY w) else .unspec5 (fieldX w) (fieldY w) (fieldN w)

/-- Family 8, selected by the low nibble (R73, R74). -/
def decode8 (w : Word) : Instr :=
  if fieldN w = 0x0#4 then .ldReg (fieldX w) (fieldY w)
  else if fieldN w = 0x1#4 then .orReg (fieldX w) (fieldY w)
  else if fieldN w = 0x2#4 then .andReg (fieldX w) (fieldY w)
  else if fieldN w = 0x3#4 then .xorReg (fieldX w) (fieldY w)
  else if fieldN w = 0x4#4 then .addReg (fieldX w) (fieldY w)
  else if fieldN w = 0x5#4 then .sub (fieldX w) (fieldY w)
  else if fieldN w = 0x6#4 then .shr (fieldX w) (fieldY w)
  else if fieldN w = 0x7#4 then .subn (fieldX w) (fieldY w)
  else if fieldN w = 0xE#4 then .shl (fieldX w) (fieldY w)
  else if fieldN w = 0x8#4 then .nop88 (fieldX w) (fieldY w)
  else if fieldN w = 0x9#4 then .nop89 (fieldX w) (fieldY w)
  else if fieldN w = 0xA#4 then .nop8A (fieldX w) (fieldY w)
  else if fieldN w = 0xB#4 then .nop8B (fieldX w) (fieldY w)
  else if fieldN w = 0xC#4 then .nop8C (fieldX w) (fieldY w)
  else if fieldN w = 0xD#4 then .nop8D (fieldX w) (fieldY w)
  else .nop8F (fieldX w) (fieldY w)

/-- Family 9 (R73, R76). -/
def decode9 (w : Word) : Instr :=
  if fieldN w = 0#4 then .sneReg (fieldX w) (fieldY w) else .unspec9 (fieldX w) (fieldY w) (fieldN w)

/-- Family E, selected by the low byte (R73, R76). -/
def decodeE (w : Word) : Instr :=
  if fieldNN w = 0x9E#8 then .skp (fieldX w)
  else if fieldNN w = 0xA1#8 then .sknp (fieldX w)
  else .unspecE (fieldX w) (fieldNN w)

/-- Family F, selected by the whole low byte (R73, R75; spec/90_conflicts.md C6). -/
def decodeF (w : Word) : Instr :=
  if fieldNN w = 0x07#8 then .ldVxDt (fieldX w)
  else if fieldNN w = 0x0A#8 then .ldVxK (fieldX w)
  else if fieldNN w = 0x15#8 then .ldDtVx (fieldX w)
  else if fieldNN w = 0x18#8 then .ldStVx (fieldX w)
  else if fieldNN w = 0x1E#8 then .addI (fieldX w)
  else if fieldNN w = 0x29#8 then .ldF (fieldX w)
  else if fieldNN w = 0x33#8 then .ldB (fieldX w)
  else if fieldNN w = 0x55#8 then .ldMemVx (fieldX w)
  else if fieldNN w = 0x65#8 then .ldVxMem (fieldX w)
  else .nopF (fieldX w) (fieldNN w)

/-- Dispatch on the high nibble (R73). -/
def decodeWord (w : Word) : Instr :=
  if fieldOp w = 0x0#4 then decode0 w
  else if fieldOp w = 0x1#4 then .jp (fieldNNN w)
  else if fieldOp w = 0x2#4 then .call (fieldNNN w)
  else if fieldOp w = 0x3#4 then .seImm (fieldX w) (fieldNN w)
  else if fieldOp w = 0x4#4 then .sneImm (fieldX w) (fieldNN w)
  else if fieldOp w = 0x5#4 then decode5 w
  else if fieldOp w = 0x6#4 then .ldImm (fieldX w) (fieldNN w)
  else if fieldOp w = 0x7#4 then .addImm (fieldX w) (fieldNN w)
  else if fieldOp w = 0x8#4 then decode8 w
  else if fieldOp w = 0x9#4 then decode9 w
  else if fieldOp w = 0xA#4 then .ldI (fieldNNN w)
  else if fieldOp w = 0xB#4 then .jpV0 (fieldNNN w)
  else if fieldOp w = 0xC#4 then .rnd (fieldX w) (fieldNN w)
  else if fieldOp w = 0xD#4 then .drw (fieldX w) (fieldY w) (fieldN w)
  else if fieldOp w = 0xE#4 then decodeE w
  else decodeF w

/-- Why a list of bytes holds no instruction. -/
inductive DecodeError where
  /-- Fewer than the two bytes of a word are left (R70). -/
  | truncated
  deriving DecidableEq, Repr

/-- The instruction at the head of a list of bytes, with the bytes after it. -/
def decode : List Byte → Except DecodeError (Instr × List Byte)
  | hi :: lo :: rest => .ok (decodeWord (wordOfBytes hi lo), rest)
  | [_] => .error .truncated
  | [] => .error .truncated

/-- The decoder's answer for a word given as a number of `nbits` bits, bit 0 the least significant bit of the word;
the word's two bytes are laid out high byte first (spec/20_memory.md R52) and given to `decode`. -/
def decodeTableWord (nbits w : Nat) : Option Instr :=
  match decode [highByte (BitVec.ofNat 16 (w % 2 ^ nbits)), lowByte (BitVec.ofNat 16 (w % 2 ^ nbits))] with
  | .ok (i, _) => some i
  | .error _ => none

/-! ## The encoder, from the opcode map of spec/30_encoding.md section 3 -/

/-- The word of an instruction (R72 and the opcode map). -/
def encode : Instr → Word
  | .cls => 0x00E0#16
  | .ret => 0x00EE#16
  | .sys nnn => wordNNN 0x0 nnn
  | .jp nnn => wordNNN 0x1 nnn
  | .call nnn => wordNNN 0x2 nnn
  | .seImm x nn => wordXNN 0x3 x nn
  | .sneImm x nn => wordXNN 0x4 x nn
  | .seReg x y => wordXYN 0x5 x y 0x0
  | .ldImm x nn => wordXNN 0x6 x nn
  | .addImm x nn => wordXNN 0x7 x nn
  | .ldReg x y => wordXYN 0x8 x y 0x0
  | .orReg x y => wordXYN 0x8 x y 0x1
  | .andReg x y => wordXYN 0x8 x y 0x2
  | .xorReg x y => wordXYN 0x8 x y 0x3
  | .addReg x y => wordXYN 0x8 x y 0x4
  | .sub x y => wordXYN 0x8 x y 0x5
  | .shr x y => wordXYN 0x8 x y 0x6
  | .subn x y => wordXYN 0x8 x y 0x7
  | .shl x y => wordXYN 0x8 x y 0xE
  | .sneReg x y => wordXYN 0x9 x y 0x0
  | .ldI nnn => wordNNN 0xA nnn
  | .jpV0 nnn => wordNNN 0xB nnn
  | .rnd x nn => wordXNN 0xC x nn
  | .drw x y n => wordXYN 0xD x y n
  | .skp x => wordXNN 0xE x 0x9E
  | .sknp x => wordXNN 0xE x 0xA1
  | .ldVxDt x => wordXNN 0xF x 0x07
  | .ldVxK x => wordXNN 0xF x 0x0A
  | .ldDtVx x => wordXNN 0xF x 0x15
  | .ldStVx x => wordXNN 0xF x 0x18
  | .addI x => wordXNN 0xF x 0x1E
  | .ldF x => wordXNN 0xF x 0x29
  | .ldB x => wordXNN 0xF x 0x33
  | .ldMemVx x => wordXNN 0xF x 0x55
  | .ldVxMem x => wordXNN 0xF x 0x65
  | .nop88 x y => wordXYN 0x8 x y 0x8
  | .nop89 x y => wordXYN 0x8 x y 0x9
  | .nop8A x y => wordXYN 0x8 x y 0xA
  | .nop8B x y => wordXYN 0x8 x y 0xB
  | .nop8C x y => wordXYN 0x8 x y 0xC
  | .nop8D x y => wordXYN 0x8 x y 0xD
  | .nop8F x y => wordXYN 0x8 x y 0xF
  | .nopF x nn => wordXNN 0xF x nn
  | .unspec5 x y n => wordXYN 0x5 x y n
  | .unspec9 x y n => wordXYN 0x9 x y n
  | .unspecE x nn => wordXNN 0xE x nn

/-- The bytes of an instruction in the order they lie in memory (spec/20_memory.md R52). -/
def encodeBytes (i : Instr) : List Byte := [highByte (encode i), lowByte (encode i)]

/-! ## The machine-readable opcode table -/

/-- One row of spec/opcode_table.json: the word `w` is of the row when `w &&& mask = bits`. -/
structure TableRow where
  bits : Word
  mask : Word
  deriving DecidableEq, Repr

/-- The word matches the row's pattern. -/
def TableRow.holds (r : TableRow) (w : Word) : Bool := w &&& r.mask == r.bits

/-- Families 0 to 7 of spec/opcode_table.json, in the order a decoder tests the rows. -/
def tableRows0to7 : List TableRow :=
  [⟨0x00E0, 0xFFFF⟩, ⟨0x00EE, 0xFFFF⟩, ⟨0x0000, 0xF000⟩, ⟨0x1000, 0xF000⟩, ⟨0x2000, 0xF000⟩,
   ⟨0x3000, 0xF000⟩, ⟨0x4000, 0xF000⟩, ⟨0x5000, 0xF00F⟩, ⟨0x6000, 0xF000⟩, ⟨0x7000, 0xF000⟩]

/-- Families 8 to D of spec/opcode_table.json. -/
def tableRows8toD : List TableRow :=
  [⟨0x8000, 0xF00F⟩, ⟨0x8001, 0xF00F⟩, ⟨0x8002, 0xF00F⟩, ⟨0x8003, 0xF00F⟩, ⟨0x8004, 0xF00F⟩,
   ⟨0x8005, 0xF00F⟩, ⟨0x8006, 0xF00F⟩, ⟨0x8007, 0xF00F⟩, ⟨0x800E, 0xF00F⟩, ⟨0x9000, 0xF00F⟩,
   ⟨0xA000, 0xF000⟩, ⟨0xB000, 0xF000⟩, ⟨0xC000, 0xF000⟩, ⟨0xD000, 0xF000⟩]

/-- Families E and F of spec/opcode_table.json. -/
def tableRowsEF : List TableRow :=
  [⟨0xE09E, 0xF0FF⟩, ⟨0xE0A1, 0xF0FF⟩, ⟨0xF007, 0xF0FF⟩, ⟨0xF00A, 0xF0FF⟩, ⟨0xF015, 0xF0FF⟩,
   ⟨0xF018, 0xF0FF⟩, ⟨0xF01E, 0xF0FF⟩, ⟨0xF029, 0xF0FF⟩, ⟨0xF033, 0xF0FF⟩, ⟨0xF055, 0xF0FF⟩,
   ⟨0xF065, 0xF0FF⟩]

/-- The no-op and unspecified rows of spec/opcode_table.json, which stand last. -/
def tableRowsOther : List TableRow :=
  [⟨0x8008, 0xF00F⟩, ⟨0x8009, 0xF00F⟩, ⟨0x800A, 0xF00F⟩, ⟨0x800B, 0xF00F⟩, ⟨0x800C, 0xF00F⟩,
   ⟨0x800D, 0xF00F⟩, ⟨0x800F, 0xF00F⟩, ⟨0xF000, 0xF000⟩, ⟨0x5000, 0xF000⟩, ⟨0x9000, 0xF000⟩,
   ⟨0xE000, 0xF000⟩]

/-- The 46 rows of spec/opcode_table.json in the table's order; the first row that matches a word is its row
(spec/30_encoding.md section 3). -/
def opcodeTable : List TableRow := tableRows0to7 ++ tableRows8toD ++ tableRowsEF ++ tableRowsOther

/-- The place of an instruction's row in `opcodeTable`, counted from 0. -/
def Instr.tableIndex : Instr → Nat
  | .cls => 0
  | .ret => 1
  | .sys _ => 2
  | .jp _ => 3
  | .call _ => 4
  | .seImm _ _ => 5
  | .sneImm _ _ => 6
  | .seReg _ _ => 7
  | .ldImm _ _ => 8
  | .addImm _ _ => 9
  | .ldReg _ _ => 10
  | .orReg _ _ => 11
  | .andReg _ _ => 12
  | .xorReg _ _ => 13
  | .addReg _ _ => 14
  | .sub _ _ => 15
  | .shr _ _ => 16
  | .subn _ _ => 17
  | .shl _ _ => 18
  | .sneReg _ _ => 19
  | .ldI _ => 20
  | .jpV0 _ => 21
  | .rnd _ _ => 22
  | .drw _ _ _ => 23
  | .skp _ => 24
  | .sknp _ => 25
  | .ldVxDt _ => 26
  | .ldVxK _ => 27
  | .ldDtVx _ => 28
  | .ldStVx _ => 29
  | .addI _ => 30
  | .ldF _ => 31
  | .ldB _ => 32
  | .ldMemVx _ => 33
  | .ldVxMem _ => 34
  | .nop88 _ _ => 35
  | .nop89 _ _ => 36
  | .nop8A _ _ => 37
  | .nop8B _ _ => 38
  | .nop8C _ _ => 39
  | .nop8D _ _ => 40
  | .nop8F _ _ => 41
  | .nopF _ _ => 42
  | .unspec5 _ _ _ => 43
  | .unspec9 _ _ _ => 44
  | .unspecE _ _ => 45

end Sys2Proof
end

