-- ==== Sys2Proof/Machine/Fetch.lean ====
section
/-! DEFINITION. Phase 2 of a step, the fetch (spec/40_cycle.md R92), and placing a word where it fetches. -/

namespace Sys2Proof.Machine

/-- The word at `pc`, high byte first, whatever `pc`'s parity (spec/20_memory.md R52, R54, R55). -/
def State.fetchWord (s : State) : Word := wordOfBytes (s.readByte s.pc.toNat) (s.readByte (s.pc.toNat + 1))

/-- The fetched instruction; past 0xFFE the fetch raises FatalTrap (R92). -/
def State.fetch (s : State) : Except Fault Instr :=
  if 0xFFE < s.pc.toNat then .error (.fatalTrap s.pc) else .ok (decodeWord s.fetchWord)

/-- The address the next instruction is placed at: `pc`, or the entry point 0x200 where a fetch at `pc` would trap. -/
def State.fetchPlace (s : State) : Word := if 0xFFE < s.pc.toNat then 0x200#16 else s.pc

/-- The state with the word `w` at its fetch address, not waiting for a key (log entry 13). -/
def State.placeWord (s : State) (w : Word) : State :=
  ((s.setMemory (Memory.writeAll s.config (fun k => s.fetchPlace.toNat + k) 0 [highByte w, lowByte w] s.memory)).setPc
    s.fetchPlace).setWaiting none

end Sys2Proof.Machine
end

