-- ==== Sys2Proof/Machine/Step.lean ====
section
/-! DEFINITION. The fetch-decode-execute step (spec/40_cycle.md R90). -/

namespace Sys2Proof.Machine

/-- One step: the key-wait phase, else the fetch, decoding and execution (R91 to R95). The spec's Blocked outcome is
`next` of the same state (R91; log entry 7); the step never ticks a timer (R96). -/
def step (s : State) : Host.Outcome State Fault Refusal :=
  match s.waiting with
  | some r => keyWait r s
  | none =>
    match s.fetch with
    | .error f => .fault f
    | .ok i => exec i s

/-- The state in which the next step fetches and runs the word `w` of `nbits` bits (log entry 13). -/
def State.withFetchWord (s : State) (nbits w : Nat) : State := s.placeWord (BitVec.ofNat 16 (w % 2 ^ nbits))

end Sys2Proof.Machine
end

