-- ==== Sys2Proof/Machine/HostInterface.lean ====
section
/-! DEFINITION. The operations the host performs between steps (spec/60_exceptions.md R190; step itself is
Machine/Step.lean). -/

namespace Sys2Proof.Machine

/-- `reset()` at any time: every element of the state at its reset value (spec/70_reset_and_hazards.md R210). The
model's own fields stay: the configuration is the instance's, and no free value is taken twice (log entries 1, 6). -/
def State.hostReset (s : State) : State := { State.reset with config := s.config, freeCount := s.freeCount }

/-- The longest program, in bytes (R212). -/
def maxProgramLength : Nat := 0xE00

/-- The address a program is loaded at (R57, R214). -/
def programBase : Nat := 0x200

/-- `loadProgram(bytes)`: reset, then the bytes verbatim from 0x200; a program of more than 3584 bytes is
ProgramTooLarge and changes no state (R212, R213). -/
def loadProgram (bytes : List Byte) (s : State) : Result :=
  if maxProgramLength < bytes.length then .fault (.programTooLarge bytes.length)
  else .next (s.hostReset.setMemory
    (Memory.writeAll s.config (fun k => programBase + k) 0 bytes s.hostReset.memory))

/-- One tick of a timer: down by 1 while above 0 (R26, R188). -/
def tick (v : Byte) : Byte := if v = 0#8 then 0#8 else v - 1#8

/-- `tickTimers()` (R188). -/
def State.tickTimers (s : State) : State := (s.setDt (tick s.dt)).setSt (tick s.st)

/-- `setKeys(k)`: the whole latch (R191). -/
def State.setKeys (s : State) (k : Vector Bool 16) : State := s.setKeypad k

/-- `clearDrawPending()` (R192). -/
def State.clearDrawPending (s : State) : State := s.setDrawPending false

/-- `readDisplay()`: the 2048 pixels; no state change (R192). -/
def State.readDisplay (s : State) : BitVec pixelCount := s.display

/-- `readDrawPending()`; no state change (R192). -/
def State.readDrawPending (s : State) : Bool := s.drawPending

/-- `readSoundTimer()`; no state change (R189). -/
def State.readSoundTimer (s : State) : Byte := s.st

/-- The host's operations other than step; these and no others (R190). -/
inductive HostOp where
  | reset
  | loadProgram (bytes : List Byte)
  | tickTimers
  | setKeys (k : Vector Bool 16)
  | clearDrawPending
  | readDisplay
  | readDrawPending
  | readSoundTimer
  deriving DecidableEq, Repr

/-- The effect of a host operation on the block (the table of R190). -/
def hostOp (o : HostOp) (s : State) : Result :=
  match o with
  | .reset => .next s.hostReset
  | .loadProgram bytes => Sys2Proof.Machine.loadProgram bytes s
  | .tickTimers => .next s.tickTimers
  | .setKeys k => .next (s.setKeys k)
  | .clearDrawPending => .next s.clearDrawPending
  | .readDisplay => .next s
  | .readDrawPending => .next s
  | .readSoundTimer => .next s

end Sys2Proof.Machine
end

