-- ==== Sys2Proof/Machine/Events.lean ====
section
/-! DEFINITION. Steps and host operations in one total order (spec/20_memory.md R60, R61): any number of host
operations between two steps (spec/60_exceptions.md R188, R191). -/

namespace Sys2Proof.Machine

/-- What happens next to the block: it steps, or the host operates on it. -/
inductive Event where
  | step
  | host (o : HostOp)
  deriving DecidableEq, Repr

/-- One event. -/
def runEvent (e : Event) (s : State) : Result :=
  match e with
  | .step => step s
  | .host o => hostOp o s

/-- Events in order. A run ends at its first fatal result or refusal and keeps it (R98, R183); a program too large is
recoverable, and the machine goes on as it was (spec/60_exceptions.md R180, spec/70_reset_and_hazards.md R213). -/
def runEvents : List Event → State → Result
  | [], s => .next s
  | e :: es, s =>
    match runEvent e s with
    | .next t => runEvents es t
    | .fault (.programTooLarge _) => runEvents es s
    | .fault f => .fault f
    | .refused r => .refused r

end Sys2Proof.Machine
end

