-- ==== Sys2Proof/Safety.lean ====
section
/-! DEFINITION. The words the claims are made of: what one can observe of a state, what an instruction may change
(frames), the machine's invariant, and the end states of a run (spec/70_reset_and_hazards.md R220). -/

namespace Sys2Proof.Machine

/-! ## Frames -/

/-- The smallest parts of the state that a frame speaks of: every element of spec/10_state.md section 12, entry by
entry, and the model's own two fields. -/
inductive Component where
  | reg (r : Reg)
  | indexReg
  | pc
  | stackEntry (k : Fin 16)
  | sp
  | dt
  | st
  | pixel (p : Nat)
  | key (k : Fin 16)
  | drawFlag
  | waiting
  | byte (a : Nat)
  | config
  | freeCount
  deriving DecidableEq, Repr

/-- The component reads the same in both states. -/
def Component.same (s t : State) : Component → Prop
  | .reg r => t.reg r = s.reg r
  | .indexReg => t.I = s.I
  | .pc => t.pc = s.pc
  | .stackEntry k => t.stack[k] = s.stack[k]
  | .sp => t.sp = s.sp
  | .dt => t.dt = s.dt
  | .st => t.st = s.st
  | .pixel p => t.pixel p = s.pixel p
  | .key k => t.keypad[k] = s.keypad[k]
  | .drawFlag => t.drawPending = s.drawPending
  | .waiting => t.waiting = s.waiting
  | .byte a => t.readByte a = s.readByte a
  | .config => t.config = s.config
  | .freeCount => t.freeCount = s.freeCount

/-- From `s` to `t` nothing changes outside the components that `written` names. -/
def Frame (written : Component → Prop) (s t : State) : Prop := ∀ c, ¬ written c → c.same s t

/-! ## The invariant -/

/-- What every step and every host operation keeps: the memory is canonical; `pc` is at most 0x10FE (R23); every
stack entry is at most 0x1000 (R103); while the machine waits, `pc` is the address of the FX0A that named the
register (R30). -/
structure Inv (s : State) : Prop where
  memory_wf : Memory.wf s.config s.memory
  pc_le : s.pc.toNat ≤ 0x10FE
  stack_le : ∀ k : Fin 16, s.stack[k].toNat ≤ 0x1000
  waiting_at : ∀ r, s.waiting = some r → s.pc.toNat ≤ 0xFFE ∧ s.fetchWord = wordXNN 0xF r 0x0A

/-! ## Outcomes and end states (R90, R220) -/

/-- The step is the key-wait case with no key pressed (R90, R91). -/
def Blocked (s : State) : Prop := s.waiting.isSome ∧ s.firstPressed = none

/-- The machine stands at a jump to itself (R220 a). -/
def Idle (s : State) : Prop :=
  s.waiting = none ∧ s.pc.toNat ≤ 0xFFE ∧
    ∃ nnn : Addr, nnn.toNat = s.pc.toNat ∧
      (s.fetchWord = wordNNN 0x1 nnn ∨
        (s.fetchWord = wordNNN 0x0 nnn ∧ s.fetchWord ≠ 0x00E0#16 ∧ s.fetchWord ≠ 0x00EE#16))

/-- The step ends in a fatal result (R220 c). -/
def Faulted (s : State) : Prop := ∃ f, step s = .fault f

/-- The step ends in a refusal (R220 d). -/
def Refused (s : State) : Prop := ∃ r, step s = .refused r

/-! ## What a sprite covers (R161) -/

/-- Pixel `p` is one that DXYN toggles: some row r < n and bit b of the sprite, set, and inside the screen. -/
def State.spriteCovers (s : State) (x y : Reg) (n : Nibble) (p : Nat) : Prop :=
  ∃ r b, r < n.toNat ∧ b < 8 ∧ (s.readByte (s.ea r)).getLsbD (7 - b) = true ∧
    s.spriteCol x + b < 64 ∧ s.spriteRow y + r < 32 ∧ p = (s.spriteCol x + b) + 64 * (s.spriteRow y + r)

/-- The writes of a flag-setting instruction on VF and Vx: VF_ORDER decides what VF keeps when X = F (R121). -/
def FlagAndResult (s t : State) (x : Reg) (flag result : Byte) : Prop :=
  (x ≠ .vf → t.reg x = result ∧ t.reg .vf = flag) ∧
  (x = .vf → (s.config.vfOrder = .tableOrder → t.reg .vf = result) ∧ (s.config.vfOrder = .flagLast → t.reg .vf = flag))

/-- The word is one that the source gives no meaning: 5XYN or 9XYN with N ≠ 0, or EXNN with NN neither 9E nor A1
(spec/30_encoding.md R76). -/
def MeaninglessWord (w : Word) : Prop :=
  (∃ (x y : Reg) (n : Nibble), n ≠ 0#4 ∧ (w = wordXYN 0x5 x y n ∨ w = wordXYN 0x9 x y n)) ∨
  (∃ (x : Reg) (nn : Byte), nn ≠ 0x9E#8 ∧ nn ≠ 0xA1#8 ∧ w = wordXNN 0xE x nn)

end Sys2Proof.Machine
end

