-- ==== Sys2Proof/Certificates/Slice0/Obligations.lean ====
section
/-! DEFINITION. The statements for the provers. Words are written bit by bit from the formats of spec/30_encoding.md
R72 as `op ++ X ++ NN` and the like. A frame names every component that may change; all others read the same. -/

open Sys2Proof Sys2Proof.Machine

/-! ## Encoding -/

/-- Example words of the spec's own rules, one or more for each of the sixteen families (high nibbles), decode to their
instructions. -/
def Obligations.WordsOfTheSpecDecode : Prop :=
  decodeWord 0x00E0#16 = .cls ∧ decodeWord 0x00EE#16 = .ret ∧ decodeWord 0x00E1#16 = .sys 0x0E1#12 ∧
  decodeWord 0x1234#16 = .jp 0x234#12 ∧ decodeWord 0x2300#16 = .call 0x300#12 ∧
  decodeWord 0x3310#16 = .seImm 3#4 0x10#8 ∧ decodeWord 0x4310#16 = .sneImm 3#4 0x10#8 ∧
  decodeWord 0x5120#16 = .seReg 1#4 2#4 ∧ decodeWord 0x6A2F#16 = .ldImm 0xA#4 0x2F#8 ∧
  decodeWord 0x7102#16 = .addImm 1#4 0x02#8 ∧ decodeWord 0x810E#16 = .shl 1#4 0#4 ∧
  decodeWord 0x9120#16 = .sneReg 1#4 2#4 ∧ decodeWord 0xA2F0#16 = .ldI 0x2F0#12 ∧
  decodeWord 0xB300#16 = .jpV0 0x300#12 ∧
  decodeWord 0xC10F#16 = .rnd 1#4 0x0F#8 ∧ decodeWord 0xD015#16 = .drw 0#4 1#4 5#4 ∧
  decodeWord 0xE39E#16 = .skp 3#4 ∧ decodeWord 0xF265#16 = .ldVxMem 2#4 ∧
  decodeWord 0x812F#16 = .nop8F 1#4 2#4 ∧ decodeWord 0xF117#16 = .nopF 1#4 0x17#8 ∧
  decodeWord 0x5121#16 = .unspec5 1#4 2#4 1#4

/-- Decoding the encoding of a well-formed instruction gives the instruction back, and its two bytes decode to it
with whatever follows left over. -/
def Obligations.DecodeOfEncodeIsTheInstruction : Prop :=
  ∀ i : Instr, i.wellFormed = true →
    decodeWord (encode i) = i ∧ ∀ rest, decode (encodeBytes i ++ rest) = .ok (i, rest)

/-- Every one of the 65536 words decodes to a well-formed instruction whose encoding is the word: no bit is dropped
and no two instructions share a word. -/
def Obligations.EncodeOfDecodeIsTheWord : Prop :=
  ∀ w : Word, (decodeWord w).wellFormed = true ∧ encode (decodeWord w) = w

/-- The decoder follows the machine-readable table: the first of its 46 rows whose mask and match the word meets is
the row of the decoded instruction. -/
def Obligations.DecoderTakesTheFirstMatchingRow : Prop :=
  ∀ w : Word, opcodeTable.findIdx? (fun r => r.holds w) = some (decodeWord w).tableIndex

/-! ## The step -/

/-- A step that does not wait and whose fetch is in bounds is `exec` of the instruction that the two bytes at `pc`
decode to; in particular it runs a well-formed instruction whose bytes lie there. -/
def Obligations.StepRunsTheDecodedInstruction : Prop :=
  (∀ (s : State) (i : Instr) (rest : List Byte), s.waiting = none → s.pc.toNat ≤ 0xFFE →
    decode [s.readByte s.pc.toNat, s.readByte (s.pc.toNat + 1)] = .ok (i, rest) → step s = exec i s) ∧
  (∀ (s : State) (i : Instr), s.waiting = none → s.pc.toNat ≤ 0xFFE → i.wellFormed = true →
    s.readByte s.pc.toNat = highByte (encode i) → s.readByte (s.pc.toNat + 1) = lowByte (encode i) →
    step s = exec i s)

/-- R92: a fetch at `pc > 0xFFE` is FatalTrap, and every other fetch reads the big-endian word at `pc`, at odd and
even `pc` alike. -/
def Obligations.FetchReadsTheWordOrTraps : Prop :=
  ∀ s : State, s.waiting = none →
    (0xFFE < s.pc.toNat → step s = .fault (.fatalTrap s.pc)) ∧
    (s.pc.toNat ≤ 0xFFE →
      step s = exec (decodeWord (BitVec.ofNat 16
        ((s.readByte s.pc.toNat).toNat * 256 + (s.readByte (s.pc.toNat + 1)).toNat))) s)

/-- R91: a waiting step with no key pressed changes nothing (the spec's Blocked, `next` of the same state here: log
entry 7), and with keys pressed stores the least of them, ends the wait and moves past the FX0A. -/
def Obligations.KeyWaitTakesTheLeastPressedKey : Prop :=
  ∀ (s : State) (r : Reg), s.waiting = some r →
    ((∀ k : Fin 16, s.keypad[k] = false) → Blocked s ∧ step s = .next s) ∧
    (∀ k : Fin 16, s.keypad[k] = true → (∀ j : Fin 16, j < k → s.keypad[j] = false) →
      ¬ Blocked s ∧ ∃ t, step s = .next t ∧ t.reg r = BitVec.ofNat 8 k.val ∧ t.waiting = none ∧
        t.pc = s.pc + 2#16 ∧ Frame (fun c => c = .reg r ∨ c = .waiting ∨ c = .pc) s t)

/-- A step ends in a fatal result exactly in the three cases of R180 that belong to a step, in the order of R184:
nothing else faults. -/
def Obligations.StepFaultsExactlyInThreeCases : Prop :=
  ∀ (s : State) (f : Fault), step s = .fault f ↔
    s.waiting = none ∧
      ((0xFFE < s.pc.toNat ∧ f = .fatalTrap s.pc) ∨
       (s.pc.toNat ≤ 0xFFE ∧ s.fetchWord = 0x00EE#16 ∧ s.sp.val = 0 ∧ f = .stackUnderflow s.pc) ∨
       (s.pc.toNat ≤ 0xFFE ∧ (∃ nnn : Addr, s.fetchWord = (0x2#4 ++ nnn : Word)) ∧ s.sp.val = 16 ∧
        f = .stackOverflow s.pc))

/-- A step is refused exactly for a word without a meaning under `refuse` (R76) and a key index past the keypad under
`refuse` (R170): no other instruction is ever refused. -/
def Obligations.StepRefusesExactlyInTwoCases : Prop :=
  ∀ (s : State) (r : Refusal), step s = .refused r ↔
    s.waiting = none ∧ s.pc.toNat ≤ 0xFFE ∧
      ((MeaninglessWord s.fetchWord ∧ s.config.unspecEncoding = .refuse ∧ r = .unspecifiedEncoding s.pc) ∨
       (∃ x : Reg, (s.fetchWord = (0xE#4 ++ x ++ 0x9E#8 : Word) ∨ s.fetchWord = (0xE#4 ++ x ++ 0xA1#8 : Word)) ∧
          15 < (s.reg x).toNat ∧ s.config.keyIndexPolicy = .refuse ∧ r = .keyIndexOutOfRange s.pc))

/-- R95 for every word: the program counter moves by 2, except for the five jumps, for a taken skip (by 4) and for
FX0A (not at all). -/
def Obligations.ProgramCounterMovesByTwoUnlessNamed : Prop :=
  ∀ s t : State, s.waiting = none → step s = .next t → t.pc ≠ s.pc + 2#16 →
    s.fetchWord = 0x00EE#16 ∨
    (∃ nnn : Addr, (s.fetchWord = (0x0#4 ++ nnn : Word) ∨ s.fetchWord = (0x1#4 ++ nnn : Word) ∨
        s.fetchWord = (0x2#4 ++ nnn : Word)) ∧ t.pc.toNat = nnn.toNat) ∨
    (∃ nnn : Addr, s.fetchWord = (0xB#4 ++ nnn : Word) ∧ t.pc.toNat = nnn.toNat + (s.reg .v0).toNat) ∨
    (∃ x : Reg, s.fetchWord = (0xF#4 ++ x ++ 0x0A#8 : Word) ∧ t.pc = s.pc) ∨
    (t.pc = s.pc + 4#16 ∧
      ((∃ (x : Reg) (nn : Byte), s.fetchWord = (0x3#4 ++ x ++ nn : Word) ∨ s.fetchWord = (0x4#4 ++ x ++ nn : Word)) ∨
       (∃ x y : Reg, s.fetchWord = (0x5#4 ++ x ++ y ++ 0x0#4 : Word) ∨ s.fetchWord = (0x9#4 ++ x ++ y ++ 0x0#4 : Word)) ∨
       (∃ x : Reg, s.fetchWord = (0xE#4 ++ x ++ 0x9E#8 : Word) ∨ s.fetchWord = (0xE#4 ++ x ++ 0xA1#8 : Word))))

/-! ## The invariant -/

/-- The invariant holds at reset. -/
def Obligations.ResetMeetsTheInvariant : Prop := Inv State.reset

/-- Every step from a state that meets the invariant gives a state that meets it: canonical memory, `pc` at most
0x10FE, stack entries at most 0x1000, and a waiting machine standing at its FX0A. -/
def Obligations.StepKeepsTheInvariant : Prop :=
  ∀ s t : State, Inv s → step s = .next t → Inv t

/-- Every host operation keeps the invariant, so every interleaving of steps and host operations does. -/
def Obligations.HostOperationsAndRunsKeepTheInvariant : Prop :=
  (∀ (o : HostOp) (s t : State), Inv s → hostOp o s = .next t → Inv t) ∧
  (∀ (es : List Event) (s t : State), Inv s → runEvents es s = .next t → Inv t)

/-! ## Memory -/

/-- R53: a data address is the whole sum masked to 12 bits, always inside the memory, and the sixteen offsets an
instruction can use give sixteen different addresses. -/
def Obligations.DataAddressIsTheMaskedSum : Prop :=
  (∀ (s : State) (k : Nat), s.ea k = (s.I.toNat + k) % 4096 ∧ s.ea k < 4096) ∧
  (∀ (s : State) (j k : Nat), j < 16 → k < 16 → s.ea j = s.ea k → j = k)

/-- Two canonical memories that read the same are the same data (the representation is the model's own: log entry
14). -/
def Obligations.EqualReadingMemoriesAreEqual : Prop :=
  ∀ (c : Config) (m m' : Memory), Memory.wf c m → Memory.wf c m' →
    (∀ a, a < 4096 → Memory.read c m a = Memory.read c m' a) → m = m'

/-- Of all steps, only FX33 and FX55 write memory. -/
def Obligations.OnlyBcdAndStoreWriteMemory : Prop :=
  ∀ s t : State, step s = .next t → t.memory ≠ s.memory →
    s.waiting = none ∧ ∃ x : Reg, s.fetchWord = (0xF#4 ++ x ++ 0x33#8 : Word) ∨ s.fetchWord = (0xF#4 ++ x ++ 0x55#8 : Word)

/-! ## Control transfer and skips -/

/-- R100: 00EE returns to the last pushed address, or is StackUnderflow with nothing to pop. -/
def Obligations.ReturnPopsOrUnderflows : Prop :=
  (∀ w, decodeWord w = .ret ↔ w = 0x00EE#16) ∧
  (∀ s : State, s.sp.val = 0 → exec .ret s = .fault (.stackUnderflow s.pc)) ∧
  (∀ (s : State) (k : Fin 16), s.sp.val = k.val + 1 →
    ∃ t, exec .ret s = .next t ∧ t.sp.val = k.val ∧ t.pc = s.stack[k] ∧
      Frame (fun c => c = .sp ∨ c = .pc) s t)

/-- R101 and R102: 0NNN (other than 00E0 and 00EE) and 1NNN jump to NNN and change nothing else. -/
def Obligations.SysAndJumpSetThePc : Prop :=
  (∀ w nnn, decodeWord w = .sys nnn ↔ w = (0x0#4 ++ nnn : Word) ∧ w ≠ 0x00E0#16 ∧ w ≠ 0x00EE#16) ∧
  (∀ w nnn, decodeWord w = .jp nnn ↔ w = (0x1#4 ++ nnn : Word)) ∧
  (∀ (nnn : Addr) (s : State), ∃ t, exec (.sys nnn) s = .next t ∧ t.pc.toNat = nnn.toNat ∧
    Frame (fun c => c = .pc) s t) ∧
  (∀ (nnn : Addr) (s : State), ∃ t, exec (.jp nnn) s = .next t ∧ t.pc.toNat = nnn.toNat ∧
    Frame (fun c => c = .pc) s t)

/-- R103: 2NNN pushes the address after itself and jumps, or is StackOverflow with 16 entries live. -/
def Obligations.CallPushesOrOverflows : Prop :=
  (∀ w nnn, decodeWord w = .call nnn ↔ w = (0x2#4 ++ nnn : Word)) ∧
  (∀ (nnn : Addr) (s : State), s.sp.val = 16 → exec (.call nnn) s = .fault (.stackOverflow s.pc)) ∧
  (∀ (nnn : Addr) (s : State) (k : Fin 16), s.sp.val = k.val →
    ∃ t, exec (.call nnn) s = .next t ∧ t.stack[k] = s.pc + 2#16 ∧ t.sp.val = k.val + 1 ∧
      t.pc.toNat = nnn.toNat ∧ Frame (fun c => c = .stackEntry k ∨ c = .sp ∨ c = .pc) s t)

/-- A RET in any later state with the stack the CALL left goes to the instruction after the CALL and leaves the stack
pointer as it was before it. -/
def Obligations.ReturnUndoesCall : Prop :=
  ∀ (nnn : Addr) (s t u : State), exec (.call nnn) s = .next t → u.sp = t.sp → u.stack = t.stack →
    ∃ v, exec .ret u = .next v ∧ v.pc = s.pc + 2#16 ∧ v.sp = s.sp ∧ Frame (fun c => c = .sp ∨ c = .pc) u v

/-- R104 and R105: the skips that compare a register with an immediate. -/
def Obligations.SkipOnImmediate : Prop :=
  (∀ w x nn, decodeWord w = .seImm x nn ↔ w = (0x3#4 ++ x ++ nn : Word)) ∧
  (∀ w x nn, decodeWord w = .sneImm x nn ↔ w = (0x4#4 ++ x ++ nn : Word)) ∧
  (∀ (x : Reg) (nn : Byte) (s : State), ∃ t, exec (.seImm x nn) s = .next t ∧
    t.pc = s.pc + (if s.reg x = nn then 4#16 else 2#16) ∧ Frame (fun c => c = .pc) s t) ∧
  (∀ (x : Reg) (nn : Byte) (s : State), ∃ t, exec (.sneImm x nn) s = .next t ∧
    t.pc = s.pc + (if s.reg x = nn then 2#16 else 4#16) ∧ Frame (fun c => c = .pc) s t)

/-- R106 and R107: the skips that compare two registers. -/
def Obligations.SkipOnRegisters : Prop :=
  (∀ w x y, decodeWord w = .seReg x y ↔ w = (0x5#4 ++ x ++ y ++ 0x0#4 : Word)) ∧
  (∀ w x y, decodeWord w = .sneReg x y ↔ w = (0x9#4 ++ x ++ y ++ 0x0#4 : Word)) ∧
  (∀ (x y : Reg) (s : State), ∃ t, exec (.seReg x y) s = .next t ∧
    t.pc = s.pc + (if s.reg x = s.reg y then 4#16 else 2#16) ∧ Frame (fun c => c = .pc) s t) ∧
  (∀ (x y : Reg) (s : State), ∃ t, exec (.sneReg x y) s = .next t ∧
    t.pc = s.pc + (if s.reg x = s.reg y then 2#16 else 4#16) ∧ Frame (fun c => c = .pc) s t)

/-- R108: BNNN jumps to NNN + V0, unmasked and without wrapping. -/
def Obligations.JumpWithOffsetAddsV0 : Prop :=
  (∀ w nnn, decodeWord w = .jpV0 nnn ↔ w = (0xB#4 ++ nnn : Word)) ∧
  (∀ (nnn : Addr) (s : State), ∃ t, exec (.jpV0 nnn) s = .next t ∧
    t.pc.toNat = nnn.toNat + (s.reg .v0).toNat ∧ Frame (fun c => c = .pc) s t)

/-- Only CALL and RET touch the stack or its pointer, each moving the pointer by one. -/
def Obligations.OnlyCallAndReturnTouchTheStack : Prop :=
  ∀ s t : State, step s = .next t → (t.sp ≠ s.sp ∨ t.stack ≠ s.stack) →
    s.waiting = none ∧
      ((s.fetchWord = 0x00EE#16 ∧ t.sp.val + 1 = s.sp.val ∧ t.stack = s.stack) ∨
       ((∃ nnn : Addr, s.fetchWord = (0x2#4 ++ nnn : Word)) ∧ t.sp.val = s.sp.val + 1))

/-- No step can tell two states apart that differ in the stack entries at and above `sp` only: the outcome is the
same, but for entries at and above the new `sp`. -/
def Obligations.DeadStackEntriesAreNotRead : Prop :=
  ∀ s u : State, (∀ c : Component, (∀ k, c = .stackEntry k → k.val < s.sp.val) → c.same s u) →
    (∀ t, step s = .next t →
      ∃ t', step u = .next t' ∧ ∀ c : Component, (∀ k, c = .stackEntry k → k.val < t.sp.val) → c.same t t') ∧
    (∀ f, step s = .fault f → step u = .fault f) ∧
    (∀ r, step s = .refused r → step u = .refused r)

/-! ## Arithmetic and logic -/

/-- R122 and R123: the immediate forms; 7XNN wraps and sets no flag. -/
def Obligations.ImmediateLoadAndAdd : Prop :=
  (∀ w x nn, decodeWord w = .ldImm x nn ↔ w = (0x6#4 ++ x ++ nn : Word)) ∧
  (∀ w x nn, decodeWord w = .addImm x nn ↔ w = (0x7#4 ++ x ++ nn : Word)) ∧
  (∀ (x : Reg) (nn : Byte) (s : State), ∃ t, exec (.ldImm x nn) s = .next t ∧ t.reg x = nn ∧
    t.pc = s.pc + 2#16 ∧ Frame (fun c => c = .reg x ∨ c = .pc) s t) ∧
  (∀ (x : Reg) (nn : Byte) (s : State), ∃ t, exec (.addImm x nn) s = .next t ∧
    (t.reg x).toNat = ((s.reg x).toNat + nn.toNat) % 256 ∧
    t.pc = s.pc + 2#16 ∧ Frame (fun c => c = .reg x ∨ c = .pc) s t)

/-- R124 to R127: 8XY0 to 8XY3 write Vx from the old Vx and Vy and no flag; the logic is said bit by bit. -/
def Obligations.RegisterCopyAndLogic : Prop :=
  (∀ w x y, decodeWord w = .ldReg x y ↔ w = (0x8#4 ++ x ++ y ++ 0x0#4 : Word)) ∧
  (∀ w x y, decodeWord w = .orReg x y ↔ w = (0x8#4 ++ x ++ y ++ 0x1#4 : Word)) ∧
  (∀ w x y, decodeWord w = .andReg x y ↔ w = (0x8#4 ++ x ++ y ++ 0x2#4 : Word)) ∧
  (∀ w x y, decodeWord w = .xorReg x y ↔ w = (0x8#4 ++ x ++ y ++ 0x3#4 : Word)) ∧
  (∀ (x y : Reg) (s : State), ∃ t, exec (.ldReg x y) s = .next t ∧ t.reg x = s.reg y ∧
    t.pc = s.pc + 2#16 ∧ Frame (fun c => c = .reg x ∨ c = .pc) s t) ∧
  (∀ (x y : Reg) (s : State), ∃ t, exec (.orReg x y) s = .next t ∧
    (∀ b, (t.reg x).getLsbD b = ((s.reg x).getLsbD b || (s.reg y).getLsbD b)) ∧
    t.pc = s.pc + 2#16 ∧ Frame (fun c => c = .reg x ∨ c = .pc) s t) ∧
  (∀ (x y : Reg) (s : State), ∃ t, exec (.andReg x y) s = .next t ∧
    (∀ b, (t.reg x).getLsbD b = ((s.reg x).getLsbD b && (s.reg y).getLsbD b)) ∧
    t.pc = s.pc + 2#16 ∧ Frame (fun c => c = .reg x ∨ c = .pc) s t) ∧
  (∀ (x y : Reg) (s : State), ∃ t, exec (.xorReg x y) s = .next t ∧
    (∀ b, (t.reg x).getLsbD b = ((s.reg x).getLsbD b ^^ (s.reg y).getLsbD b)) ∧
    t.pc = s.pc + 2#16 ∧ Frame (fun c => c = .reg x ∨ c = .pc) s t)

/-- R128: 8XY4 adds modulo 256 and sets VF to the carry, both from the old operands. -/
def Obligations.AddSetsTheCarry : Prop :=
  (∀ w x y, decodeWord w = .addReg x y ↔ w = (0x8#4 ++ x ++ y ++ 0x4#4 : Word)) ∧
  (∀ (x y : Reg) (s : State), ∃ t, exec (.addReg x y) s = .next t ∧
    FlagAndResult s t x (if 255 < (s.reg x).toNat + (s.reg y).toNat then 1#8 else 0#8)
      (BitVec.ofNat 8 (((s.reg x).toNat + (s.reg y).toNat) % 256)) ∧
    t.pc = s.pc + 2#16 ∧ Frame (fun c => c = .reg x ∨ c = .reg .vf ∨ c = .pc) s t)

/-- R129 and R131: 8XY5 and 8XY7 subtract modulo 256 and set VF to 0 exactly when a borrow occurs. -/
def Obligations.SubtractSetsNotBorrow : Prop :=
  (∀ w x y, decodeWord w = .sub x y ↔ w = (0x8#4 ++ x ++ y ++ 0x5#4 : Word)) ∧
  (∀ w x y, decodeWord w = .subn x y ↔ w = (0x8#4 ++ x ++ y ++ 0x7#4 : Word)) ∧
  (∀ (x y : Reg) (s : State), ∃ t, exec (.sub x y) s = .next t ∧
    FlagAndResult s t x (if (s.reg x).toNat < (s.reg y).toNat then 0#8 else 1#8)
      (BitVec.ofInt 8 (((s.reg x).toNat : Int) - (s.reg y).toNat)) ∧
    t.pc = s.pc + 2#16 ∧ Frame (fun c => c = .reg x ∨ c = .reg .vf ∨ c = .pc) s t) ∧
  (∀ (x y : Reg) (s : State), ∃ t, exec (.subn x y) s = .next t ∧
    FlagAndResult s t x (if (s.reg y).toNat < (s.reg x).toNat then 0#8 else 1#8)
      (BitVec.ofInt 8 (((s.reg y).toNat : Int) - (s.reg x).toNat)) ∧
    t.pc = s.pc + 2#16 ∧ Frame (fun c => c = .reg x ∨ c = .reg .vf ∨ c = .pc) s t)

/-- R130 and R132: 8XY6 and 8XYE shift Vx by one and set VF to the bit shifted out, whatever Y is. -/
def Obligations.ShiftSetsTheBitShiftedOut : Prop :=
  (∀ w x y, decodeWord w = .shr x y ↔ w = (0x8#4 ++ x ++ y ++ 0x6#4 : Word)) ∧
  (∀ w x y, decodeWord w = .shl x y ↔ w = (0x8#4 ++ x ++ y ++ 0xE#4 : Word)) ∧
  (∀ (x y : Reg) (s : State), ∃ t, exec (.shr x y) s = .next t ∧
    FlagAndResult s t x (BitVec.ofNat 8 ((s.reg x).toNat % 2)) (BitVec.ofNat 8 ((s.reg x).toNat / 2)) ∧
    t.pc = s.pc + 2#16 ∧ Frame (fun c => c = .reg x ∨ c = .reg .vf ∨ c = .pc) s t) ∧
  (∀ (x y : Reg) (s : State), ∃ t, exec (.shl x y) s = .next t ∧
    FlagAndResult s t x (BitVec.ofNat 8 ((s.reg x).toNat / 128)) (BitVec.ofNat 8 ((s.reg x).toNat * 2 % 256)) ∧
    t.pc = s.pc + 2#16 ∧ Frame (fun c => c = .reg x ∨ c = .reg .vf ∨ c = .pc) s t)

/-- R121: with X = F in the five flag-writing instructions VF keeps the result under `table_order` and the flag under
`flag_last`; flag and result are those of the old operands. -/
def Obligations.VfOrderDecidesWhatVfKeeps : Prop :=
  ∀ (y : Reg) (s : State) (i : Instr) (flag result : Byte),
    ((i = .addReg .vf y ∧ flag = (if 255 < (s.reg .vf).toNat + (s.reg y).toNat then 1#8 else 0#8) ∧
        result = s.reg .vf + s.reg y) ∨
     (i = .sub .vf y ∧ flag = (if (s.reg .vf).toNat < (s.reg y).toNat then 0#8 else 1#8) ∧
        result = s.reg .vf - s.reg y) ∨
     (i = .subn .vf y ∧ flag = (if (s.reg y).toNat < (s.reg .vf).toNat then 0#8 else 1#8) ∧
        result = s.reg y - s.reg .vf) ∨
     (i = .shr .vf y ∧ flag = BitVec.ofNat 8 ((s.reg .vf).toNat % 2) ∧
        result = BitVec.ofNat 8 ((s.reg .vf).toNat / 2)) ∨
     (i = .shl .vf y ∧ flag = BitVec.ofNat 8 ((s.reg .vf).toNat / 128) ∧
        result = BitVec.ofNat 8 ((s.reg .vf).toNat * 2 % 256))) →
    ∃ t, exec i s = .next t ∧
      t.reg .vf = (match s.config.vfOrder with | .tableOrder => result | .flagLast => flag) ∧
      t.pc = s.pc + 2#16 ∧ Frame (fun c => c = .reg .vf ∨ c = .pc) s t

/-- CXNN stores the masked free byte, whatever that byte is, and takes the next one at the next draw (the counter is
the model's own: log entry 6); bits outside NN are 0. -/
def Obligations.RandomIsAMaskedFreeByte : Prop :=
  (∀ w x nn, decodeWord w = .rnd x nn ↔ w = (0xC#4 ++ x ++ nn : Word)) ∧
  (∀ (x : Reg) (nn : Byte) (s : State), ∃ t, exec (.rnd x nn) s = .next t ∧
    t.reg x = Config.drawByte s.freeCount &&& nn ∧ (∀ b, nn.getLsbD b = false → (t.reg x).getLsbD b = false) ∧
    t.freeCount = s.freeCount + 1 ∧ t.pc = s.pc + 2#16 ∧
    Frame (fun c => c = .reg x ∨ c = .freeCount ∨ c = .pc) s t)

/-- A step changes VF only by a flag-writing instruction, or by one that names register F as its destination, or by a
key-wait for register F. -/
def Obligations.OnlyNamedInstructionsWriteVf : Prop :=
  ∀ s t : State, step s = .next t → t.reg .vf ≠ s.reg .vf →
    s.waiting = some .vf ∨
    (s.waiting = none ∧
      ((∃ x y : Reg, s.fetchWord = (0x8#4 ++ x ++ y ++ 0x4#4 : Word) ∨ s.fetchWord = (0x8#4 ++ x ++ y ++ 0x5#4 : Word) ∨
          s.fetchWord = (0x8#4 ++ x ++ y ++ 0x6#4 : Word) ∨ s.fetchWord = (0x8#4 ++ x ++ y ++ 0x7#4 : Word) ∨
          s.fetchWord = (0x8#4 ++ x ++ y ++ 0xE#4 : Word)) ∨
       (∃ (x y : Reg) (n : Nibble), s.fetchWord = (0xD#4 ++ x ++ y ++ n : Word)) ∨
       (∃ nn : Byte, s.fetchWord = (0x6#4 ++ 0xF#4 ++ nn : Word) ∨ s.fetchWord = (0x7#4 ++ 0xF#4 ++ nn : Word) ∨
          s.fetchWord = (0xC#4 ++ 0xF#4 ++ nn : Word)) ∨
       (∃ y : Reg, s.fetchWord = (0x8#4 ++ 0xF#4 ++ y ++ 0x0#4 : Word) ∨ s.fetchWord = (0x8#4 ++ 0xF#4 ++ y ++ 0x1#4 : Word) ∨
          s.fetchWord = (0x8#4 ++ 0xF#4 ++ y ++ 0x2#4 : Word) ∨ s.fetchWord = (0x8#4 ++ 0xF#4 ++ y ++ 0x3#4 : Word)) ∨
       s.fetchWord = 0xFF07#16 ∨ s.fetchWord = 0xFF65#16))

/-! ## Index register and memory transfers -/

/-- R140 to R142: the three writers of `I`. -/
def Obligations.IndexRegisterWrites : Prop :=
  (∀ w nnn, decodeWord w = .ldI nnn ↔ w = (0xA#4 ++ nnn : Word)) ∧
  (∀ w x, decodeWord w = .addI x ↔ w = (0xF#4 ++ x ++ 0x1E#8 : Word)) ∧
  (∀ w x, decodeWord w = .ldF x ↔ w = (0xF#4 ++ x ++ 0x29#8 : Word)) ∧
  (∀ (nnn : Addr) (s : State), ∃ t, exec (.ldI nnn) s = .next t ∧ t.I.toNat = nnn.toNat ∧
    t.pc = s.pc + 2#16 ∧ Frame (fun c => c = .indexReg ∨ c = .pc) s t) ∧
  (∀ (x : Reg) (s : State), ∃ t, exec (.addI x) s = .next t ∧
    t.I.toNat = (s.I.toNat + (s.reg x).toNat) % 65536 ∧
    t.pc = s.pc + 2#16 ∧ Frame (fun c => c = .indexReg ∨ c = .pc) s t) ∧
  (∀ (x : Reg) (s : State), ∃ t, exec (.ldF x) s = .next t ∧ t.I.toNat = (s.reg x).toNat * 5 ∧
    t.pc = s.pc + 2#16 ∧ Frame (fun c => c = .indexReg ∨ c = .pc) s t)

/-- R143: FX33 stores the three decimal digits at `ea(0)` to `ea(2)` and nothing else. -/
def Obligations.BcdStoresThreeDigits : Prop :=
  (∀ w x, decodeWord w = .ldB x ↔ w = (0xF#4 ++ x ++ 0x33#8 : Word)) ∧
  (∀ (x : Reg) (s : State), ∃ t, exec (.ldB x) s = .next t ∧
    (t.readByte (s.ea 0)).toNat = (s.reg x).toNat / 100 ∧
    (t.readByte (s.ea 1)).toNat = (s.reg x).toNat / 10 % 10 ∧
    (t.readByte (s.ea 2)).toNat = (s.reg x).toNat % 10 ∧
    t.pc = s.pc + 2#16 ∧ Frame (fun c => (∃ k, k < 3 ∧ c = .byte (s.ea k)) ∨ c = .pc) s t)

/-- R144: FX55 stores V0 to Vx at `ea(0)` to `ea(x)` and nothing else; `I` stays. -/
def Obligations.StoreWritesV0ToVx : Prop :=
  (∀ w x, decodeWord w = .ldMemVx x ↔ w = (0xF#4 ++ x ++ 0x55#8 : Word)) ∧
  (∀ (x : Reg) (s : State), ∃ t, exec (.ldMemVx x) s = .next t ∧
    (∀ k : Reg, k.toNat ≤ x.toNat → t.readByte (s.ea k.toNat) = s.reg k) ∧
    t.pc = s.pc + 2#16 ∧ Frame (fun c => (∃ k, k ≤ x.toNat ∧ c = .byte (s.ea k)) ∨ c = .pc) s t)

/-- R145: FX65 loads V0 to Vx from `ea(0)` to `ea(x)`; registers above Vx and `I` stay. -/
def Obligations.LoadReadsV0ToVx : Prop :=
  (∀ w x, decodeWord w = .ldVxMem x ↔ w = (0xF#4 ++ x ++ 0x65#8 : Word)) ∧
  (∀ (x : Reg) (s : State), ∃ t, exec (.ldVxMem x) s = .next t ∧
    (∀ k : Reg, k.toNat ≤ x.toNat → t.reg k = s.readByte (s.ea k.toNat)) ∧
    t.pc = s.pc + 2#16 ∧ Frame (fun c => (∃ k : Reg, k.toNat ≤ x.toNat ∧ c = .reg k) ∨ c = .pc) s t)

/-- FX65 in any later state with the memory and `I` that FX55 left gives back the registers FX55 stored. -/
def Obligations.LoadUndoesStore : Prop :=
  ∀ (x : Reg) (s t u : State), exec (.ldMemVx x) s = .next t →
    (∀ a, u.readByte a = t.readByte a) → u.I = t.I →
    ∃ v, exec (.ldVxMem x) u = .next v ∧ ∀ k : Reg, k.toNat ≤ x.toNat → v.reg k = s.reg k

/-- Only ANNN, FX1E and FX29 change `I`. -/
def Obligations.OnlyThreeInstructionsWriteI : Prop :=
  ∀ s t : State, step s = .next t → t.I ≠ s.I →
    s.waiting = none ∧
      ((∃ nnn : Addr, s.fetchWord = (0xA#4 ++ nnn : Word)) ∨
       (∃ x : Reg, s.fetchWord = (0xF#4 ++ x ++ 0x1E#8 : Word) ∨ s.fetchWord = (0xF#4 ++ x ++ 0x29#8 : Word)))

/-! ## Display -/

/-- R160: 00E0 clears every pixel and sets the draw flag, on a blank display too. -/
def Obligations.ClearScreenBlanksTheDisplay : Prop :=
  (∀ w, decodeWord w = .cls ↔ w = 0x00E0#16) ∧
  (∀ s : State, ∃ t, exec .cls s = .next t ∧ (∀ p, t.pixel p = false) ∧ t.drawPending = true ∧
    t.pc = s.pc + 2#16 ∧ Frame (fun c => (∃ p, c = .pixel p) ∨ c = .drawFlag ∨ c = .pc) s t)

/-- R161 to R163: DXYN toggles exactly the pixels its sprite covers inside the screen, sets VF to 1 exactly when one
of them was set, and sets the draw flag. The sprite's place and rows are those of the state before the instruction. -/
def Obligations.DrawTogglesTheCoveredPixels : Prop :=
  (∀ w x y n, decodeWord w = .drw x y n ↔ w = (0xD#4 ++ x ++ y ++ n : Word)) ∧
  (∀ (x y : Reg) (n : Nibble) (s : State), ∃ t, exec (.drw x y n) s = .next t ∧
    (∀ p, s.spriteCovers x y n p → t.pixel p = !s.pixel p) ∧
    ((∃ p, s.spriteCovers x y n p ∧ s.pixel p = true) → t.reg .vf = 1#8) ∧
    ((∀ p, s.spriteCovers x y n p → s.pixel p = false) → t.reg .vf = 0#8) ∧
    t.drawPending = true ∧ t.pc = s.pc + 2#16 ∧
    Frame (fun c => (∃ p, s.spriteCovers x y n p ∧ c = .pixel p) ∨ c = .reg .vf ∨ c = .drawFlag ∨ c = .pc) s t)

/-- Drawing the same sprite twice at the same place gives the display back; on a blank screen the first draw leaves
VF = 0 and the second VF = 1 exactly when the sprite covers a pixel. -/
def Obligations.DrawingTwiceRestoresTheDisplay : Prop :=
  ∀ (x y : Reg) (n : Nibble) (s t u : State), x ≠ .vf → y ≠ .vf →
    exec (.drw x y n) s = .next t → exec (.drw x y n) t = .next u →
    u.display = s.display ∧
    ((∀ p, s.pixel p = false) →
      t.reg .vf = 0#8 ∧ (u.reg .vf = 1#8 ↔ ∃ p, s.spriteCovers x y n p) ∧
      (u.reg .vf = 0#8 ↔ ∀ p, ¬ s.spriteCovers x y n p))

/-- Only 00E0 and DXYN change the display, every one of them sets the draw flag, and no step clears it. -/
def Obligations.OnlyClearAndDrawTouchTheDisplay : Prop :=
  ∀ s t : State, step s = .next t →
    (t.drawPending = s.drawPending ∨ t.drawPending = true) ∧
    ((t.display ≠ s.display ∨ t.drawPending ≠ s.drawPending) →
      s.waiting = none ∧
        (s.fetchWord = 0x00E0#16 ∨ ∃ (x y : Reg) (n : Nibble), s.fetchWord = (0xD#4 ++ x ++ y ++ n : Word))) ∧
    (s.waiting = none →
      (s.fetchWord = 0x00E0#16 ∨ ∃ (x y : Reg) (n : Nibble), s.fetchWord = (0xD#4 ++ x ++ y ++ n : Word)) →
      t.drawPending = true)

/-! ## Keys and timers -/

/-- R170 to R172: EX9E and EXA1 read the key that the whole of Vx names; past the keypad the parameter decides, in
the spec's three settings. -/
def Obligations.KeySkipsReadTheNamedKey : Prop :=
  (∀ w x, decodeWord w = .skp x ↔ w = (0xE#4 ++ x ++ 0x9E#8 : Word)) ∧
  (∀ w x, decodeWord w = .sknp x ↔ w = (0xE#4 ++ x ++ 0xA1#8 : Word)) ∧
  (∀ (x : Reg) (s : State) (k : Fin 16),
    ((s.reg x).toNat = k.val ∨
      (15 < (s.reg x).toNat ∧ s.config.keyIndexPolicy = .lowNibble ∧ (s.reg x).toNat % 16 = k.val)) →
    (∃ t, exec (.skp x) s = .next t ∧ t.pc = s.pc + (if s.keypad[k] = true then 4#16 else 2#16) ∧
      Frame (fun c => c = .pc) s t) ∧
    (∃ t, exec (.sknp x) s = .next t ∧ t.pc = s.pc + (if s.keypad[k] = true then 2#16 else 4#16) ∧
      Frame (fun c => c = .pc) s t)) ∧
  (∀ (x : Reg) (s : State), 15 < (s.reg x).toNat → s.config.keyIndexPolicy = .notPressed →
    (∃ t, exec (.skp x) s = .next t ∧ t.pc = s.pc + 2#16 ∧ Frame (fun c => c = .pc) s t) ∧
    (∃ t, exec (.sknp x) s = .next t ∧ t.pc = s.pc + 4#16 ∧ Frame (fun c => c = .pc) s t)) ∧
  (∀ (x : Reg) (s : State), 15 < (s.reg x).toNat → s.config.keyIndexPolicy = .refuse →
    exec (.skp x) s = .refused (.keyIndexOutOfRange s.pc) ∧ exec (.sknp x) s = .refused (.keyIndexOutOfRange s.pc))

/-- Under the model's own setting `anyValue` (log entry 5) a key index past the keypad runs: the instruction skips or
not, as a free value says, and takes that free value. -/
def Obligations.KeyIndexPastTheKeypadRunsOnAFreeValue : Prop :=
  ∀ (x : Reg) (s : State), 15 < (s.reg x).toNat → s.config.keyIndexPolicy = .anyValue →
    (∃ t, exec (.skp x) s = .next t ∧
      t.pc = s.pc + (if Config.keyBeyond s.freeCount (s.reg x) = true then 4#16 else 2#16) ∧
      t.freeCount = s.freeCount + 1 ∧ Frame (fun c => c = .freeCount ∨ c = .pc) s t) ∧
    (∃ t, exec (.sknp x) s = .next t ∧
      t.pc = s.pc + (if Config.keyBeyond s.freeCount (s.reg x) = true then 2#16 else 4#16) ∧
      t.freeCount = s.freeCount + 1 ∧ Frame (fun c => c = .freeCount ∨ c = .pc) s t)

/-- R173, R175 and R176: FX07 gives `x[X] <- dt`, FX15 gives `dt <- x[X]` and FX18 gives `st <- x[X]`; nothing else
but `pc` changes. -/
def Obligations.TimerTransfers : Prop :=
  (∀ w x, decodeWord w = .ldVxDt x ↔ w = (0xF#4 ++ x ++ 0x07#8 : Word)) ∧
  (∀ w x, decodeWord w = .ldDtVx x ↔ w = (0xF#4 ++ x ++ 0x15#8 : Word)) ∧
  (∀ w x, decodeWord w = .ldStVx x ↔ w = (0xF#4 ++ x ++ 0x18#8 : Word)) ∧
  (∀ (x : Reg) (s : State), ∃ t, exec (.ldVxDt x) s = .next t ∧ t.reg x = s.dt ∧
    t.pc = s.pc + 2#16 ∧ Frame (fun c => c = .reg x ∨ c = .pc) s t) ∧
  (∀ (x : Reg) (s : State), ∃ t, exec (.ldDtVx x) s = .next t ∧ t.dt = s.reg x ∧
    t.pc = s.pc + 2#16 ∧ Frame (fun c => c = .dt ∨ c = .pc) s t) ∧
  (∀ (x : Reg) (s : State), ∃ t, exec (.ldStVx x) s = .next t ∧ t.st = s.reg x ∧
    t.pc = s.pc + 2#16 ∧ Frame (fun c => c = .st ∨ c = .pc) s t)

/-- FX0A enters the wait for Vx and changes nothing else: `pc` stays and the keypad, whatever it holds, makes no
difference (R174). While the machine waits for Vx with no key pressed a step changes nothing (the spec's Blocked, `next`
of the same state here: log entry 7); a step that finds keys pressed writes the least of them into Vx and moves past
the FX0A (R91); `reset` and `loadProgram` cancel the wait (R210, R212). -/
def Obligations.KeyWaitIsEnteredResolvedAndCancelled : Prop :=
  (∀ w x, decodeWord w = .ldVxK x ↔ w = (0xF#4 ++ x ++ 0x0A#8 : Word)) ∧
  (∀ (x : Reg) (s : State), ∃ t, exec (.ldVxK x) s = .next t ∧ t.waiting = some x ∧
    Frame (fun c => c = .waiting) s t) ∧
  (∀ (x : Reg) (u : State), u.waiting = some x → (∀ k : Fin 16, u.keypad[k] = false) → step u = .next u) ∧
  (∀ (x : Reg) (u : State) (k : Fin 16), u.waiting = some x → u.keypad[k] = true →
    (∀ j : Fin 16, j < k → u.keypad[j] = false) →
    ∃ v, step u = .next v ∧ v.reg x = BitVec.ofNat 8 k.val ∧ v.waiting = none ∧ v.pc = u.pc + 2#16) ∧
  (∀ u : State, ∃ v, hostOp .reset u = .next v ∧ v.waiting = none) ∧
  (∀ (u v : State) (bytes : List Byte), hostOp (.loadProgram bytes) u = .next v → v.waiting = none)

/-- The step never ticks the timers: `dt` changes only to Vx by FX15 and `st` only to Vx by FX18. -/
def Obligations.StepNeverTicksTheTimers : Prop :=
  ∀ s t : State, step s = .next t →
    (t.dt ≠ s.dt → s.waiting = none ∧ ∃ x : Reg, s.fetchWord = (0xF#4 ++ x ++ 0x15#8 : Word) ∧ t.dt = s.reg x) ∧
    (t.st ≠ s.st → s.waiting = none ∧ ∃ x : Reg, s.fetchWord = (0xF#4 ++ x ++ 0x18#8 : Word) ∧ t.st = s.reg x)

/-- No step changes the keypad latch or the configuration; the wait is entered only by FX0A for the register it names
and left only by a step that waited. -/
def Obligations.KeypadIsOnlyReadAndWaitOnlyByKeyWait : Prop :=
  ∀ s t : State, step s = .next t →
    t.keypad = s.keypad ∧ t.config = s.config ∧
    (t.waiting ≠ s.waiting →
      (∃ x : Reg, s.waiting = none ∧ s.fetchWord = (0xF#4 ++ x ++ 0x0A#8 : Word) ∧ t.waiting = some x) ∨
      (s.waiting.isSome ∧ t.waiting = none))

/-- No step can tell two states apart that differ in the draw flag and the sound timer only: the outcomes are the
same but for those two. -/
def Obligations.DrawFlagAndSoundTimerAreNotRead : Prop :=
  ∀ s u : State, (∀ c : Component, c ≠ .drawFlag → c ≠ .st → c.same s u) →
    (∀ t, step s = .next t →
      ∃ t', step u = .next t' ∧ ∀ c : Component, c ≠ .drawFlag → c ≠ .st → c.same t t') ∧
    (∀ f, step s = .fault f → step u = .fault f) ∧
    (∀ r, step s = .refused r → step u = .refused r)

/-! ## No-op and unspecified words -/

/-- R74 and R75: the no-op words of families 8 and F advance `pc` by 2 and change nothing else. -/
def Obligations.NoOpWordsOnlyAdvance : Prop :=
  (∀ (x y : Reg), decodeWord (0x8#4 ++ x ++ y ++ 0x8#4 : Word) = .nop88 x y ∧
    decodeWord (0x8#4 ++ x ++ y ++ 0x9#4 : Word) = .nop89 x y ∧ decodeWord (0x8#4 ++ x ++ y ++ 0xA#4 : Word) = .nop8A x y ∧
    decodeWord (0x8#4 ++ x ++ y ++ 0xB#4 : Word) = .nop8B x y ∧ decodeWord (0x8#4 ++ x ++ y ++ 0xC#4 : Word) = .nop8C x y ∧
    decodeWord (0x8#4 ++ x ++ y ++ 0xD#4 : Word) = .nop8D x y ∧ decodeWord (0x8#4 ++ x ++ y ++ 0xF#4 : Word) = .nop8F x y) ∧
  (∀ (x : Reg) (nn : Byte), nn ∉ [0x07#8, 0x0A#8, 0x15#8, 0x18#8, 0x1E#8, 0x29#8, 0x33#8, 0x55#8, 0x65#8] →
    decodeWord (0xF#4 ++ x ++ nn : Word) = .nopF x nn) ∧
  (∀ (x y : Reg) (nn : Byte) (i : Instr) (s : State),
    i ∈ [.nop88 x y, .nop89 x y, .nop8A x y, .nop8B x y, .nop8C x y, .nop8D x y, .nop8F x y, .nopF x nn] →
    ∃ t, exec i s = .next t ∧ t.pc = s.pc + 2#16 ∧ Frame (fun c => c = .pc) s t)

/-- R76: a word the source gives no meaning is a no-op under `nop` and refused under `refuse`. -/
def Obligations.UnspecifiedWordsFollowTheParameter : Prop :=
  (∀ (x y : Reg) (n : Nibble), n ≠ 0#4 →
    decodeWord (0x5#4 ++ x ++ y ++ n : Word) = .unspec5 x y n ∧ decodeWord (0x9#4 ++ x ++ y ++ n : Word) = .unspec9 x y n) ∧
  (∀ (x : Reg) (nn : Byte), nn ≠ 0x9E#8 → nn ≠ 0xA1#8 → decodeWord (0xE#4 ++ x ++ nn : Word) = .unspecE x nn) ∧
  (∀ (x y : Reg) (n : Nibble) (nn : Byte) (i : Instr) (s : State),
    i ∈ [.unspec5 x y n, .unspec9 x y n, .unspecE x nn] →
    (s.config.unspecEncoding = .nop →
      ∃ t, exec i s = .next t ∧ t.pc = s.pc + 2#16 ∧ Frame (fun c => c = .pc) s t) ∧
    (s.config.unspecEncoding = .refuse → exec i s = .refused (.unspecifiedEncoding s.pc)))

/-! ## The host's operations and the end of a run -/

/-- R210: `reset()` from any state gives every element its reset value, memory the font at 0x000 to 0x04F and 0
elsewhere. -/
def Obligations.HostResetGivesTheResetValues : Prop :=
  ∀ s : State,
    (∀ r, s.hostReset.reg r = 0#8) ∧ s.hostReset.I = 0#16 ∧ s.hostReset.pc = 0x200#16 ∧
    (∀ k : Fin 16, s.hostReset.stack[k] = 0#16) ∧ s.hostReset.sp.val = 0 ∧ s.hostReset.dt = 0#8 ∧
    s.hostReset.st = 0#8 ∧ (∀ p, s.hostReset.pixel p = false) ∧ (∀ k : Fin 16, s.hostReset.keypad[k] = false) ∧
    s.hostReset.drawPending = true ∧ s.hostReset.waiting = none ∧
    (∀ a : Fin 80, s.hostReset.readByte a.val = s.config.font[a]) ∧
    (∀ a, 80 ≤ a → a < 4096 → s.hostReset.readByte a = 0#8) ∧
    hostOp .reset s = .next s.hostReset

/-- R212: a program of more than 3584 bytes is ProgramTooLarge; any other is placed at 0x200 in a machine that is
otherwise just reset. -/
def Obligations.LoadProgramResetsAndCopies : Prop :=
  (∀ (bytes : List Byte) (s : State), 3584 < bytes.length →
    hostOp (.loadProgram bytes) s = .fault (.programTooLarge bytes.length)) ∧
  (∀ (bytes : List Byte) (s : State), bytes.length ≤ 3584 →
    ∃ t, hostOp (.loadProgram bytes) s = .next t ∧
      (∀ (k : Nat) (h : k < bytes.length), t.readByte (0x200 + k) = bytes[k]) ∧ t.pc = 0x200#16 ∧
      Frame (fun c => ∃ k, k < bytes.length ∧ c = .byte (0x200 + k)) s.hostReset t)

/-- R188: a tick takes 1 from each timer that is above 0 and changes nothing else. -/
def Obligations.TickTakesOneFromEachRunningTimer : Prop :=
  ∀ s : State, ∃ t, hostOp .tickTimers s = .next t ∧
    (0 < s.dt.toNat → t.dt.toNat = s.dt.toNat - 1) ∧ (s.dt.toNat = 0 → t.dt.toNat = 0) ∧
    (0 < s.st.toNat → t.st.toNat = s.st.toNat - 1) ∧ (s.st.toNat = 0 → t.st.toNat = 0) ∧
    Frame (fun c => c = .dt ∨ c = .st) s t

/-- The host's other operations: the keypad is written whole, the draw flag is cleared, and the three reads return
the display, the draw flag and the sound timer and change nothing. -/
def Obligations.HostWritesKeysClearsDrawFlagAndReads : Prop :=
  ∀ (s : State) (k : Vector Bool 16),
    (∃ t, hostOp (.setKeys k) s = .next t ∧ t.keypad = k ∧ Frame (fun c => ∃ j, c = .key j) s t) ∧
    (∃ t, hostOp .clearDrawPending s = .next t ∧ t.drawPending = false ∧ Frame (fun c => c = .drawFlag) s t) ∧
    hostOp .readDisplay s = .next s ∧ hostOp .readDrawPending s = .next s ∧ hostOp .readSoundTimer s = .next s ∧
    (∀ p, s.readDisplay.getLsbD p = s.pixel p) ∧ s.readDrawPending = s.drawPending ∧ s.readSoundTimer = s.st

/-- R220 a: from an Idle state every step leaves the whole state unchanged. -/
def Obligations.IdleStatesStayAsTheyAre : Prop :=
  ∀ s : State, Idle s → step s = .next s

/-- No host operation touches the model's own two fields: the configuration is the instance's (log entry 1) and no free
value is taken twice (log entry 6). So `reset()` of the reset machine is the reset machine. -/
def Obligations.HostOperationsKeepTheModelsOwnFields : Prop :=
  (∀ (o : HostOp) (s t : State), hostOp o s = .next t → t.config = s.config ∧ t.freeCount = s.freeCount) ∧
  (∀ s : State, s.hostReset.config = s.config ∧ s.hostReset.freeCount = s.freeCount) ∧
  State.reset.hostReset = State.reset

/-- A `loadProgram` of too long a program changes no state: wherever it stands in a run, the run is the one without it.
The result carries no state, and the run goes on from the state before it (log entries 12 and 17). -/
def Obligations.FailedLoadLeavesTheRunAsItWas : Prop :=
  ∀ (bytes : List Byte) (es es' : List Event) (s : State), 3584 < bytes.length →
    runEvents (es ++ .host (.loadProgram bytes) :: es') s = runEvents (es ++ es') s

/-- A run ends at the first step with a fatal result or a refusal and keeps it, whatever events follow (how a run of
events ends is log entry 12). -/
def Obligations.RunsKeepTheFirstStop : Prop :=
  ∀ (es es' : List Event) (s t : State), runEvents es s = .next t →
    (∀ f, step t = .fault f → runEvents (es ++ .step :: es') s = .fault f) ∧
    (∀ r, step t = .refused r → runEvents (es ++ .step :: es') s = .refused r)
end

