-- ==== Sys2Proof/Laws/Decode.lean ====
section
/-! SUPPORT. The laws of the word formats: what each field of a formatted word is, and that a word is its own format
filled with its own fields (spec/30_encoding.md R71, R72). -/

namespace Sys2Proof

/-! ## Formats and fields as numbers -/

theorem wordNNN_toNat (op : Nibble) (nnn : Addr) : (wordNNN op nnn).toNat = op.toNat * 0x1000 + nnn.toNat := by
  show (op ++ nnn : BitVec (4 + 12)).toNat = _
  rw [BitVec.toNat_append, ← Nat.shiftLeft_add_eq_or_of_lt (by omega), Nat.shiftLeft_eq]

theorem wordXNN_toNat (op : Nibble) (x : Reg) (nn : Byte) :
    (wordXNN op x nn).toNat = op.toNat * 0x1000 + x.toNat * 0x100 + nn.toNat := by
  show (op ++ x ++ nn : BitVec (4 + 4 + 8)).toNat = _
  rw [BitVec.toNat_append, BitVec.toNat_append, ← Nat.shiftLeft_add_eq_or_of_lt (by omega),
    ← Nat.shiftLeft_add_eq_or_of_lt (by omega)]
  simp only [Nat.shiftLeft_eq]; omega

theorem wordXYN_toNat (op : Nibble) (x y : Reg) (n : Nibble) :
    (wordXYN op x y n).toNat = op.toNat * 0x1000 + x.toNat * 0x100 + y.toNat * 0x10 + n.toNat := by
  show (op ++ x ++ y ++ n : BitVec (4 + 4 + 4 + 4)).toNat = _
  rw [BitVec.toNat_append, BitVec.toNat_append, BitVec.toNat_append, ← Nat.shiftLeft_add_eq_or_of_lt (by omega),
    ← Nat.shiftLeft_add_eq_or_of_lt (by omega), ← Nat.shiftLeft_add_eq_or_of_lt (by omega)]
  simp only [Nat.shiftLeft_eq]; omega

theorem wordOfBytes_toNat (hi lo : Byte) : (wordOfBytes hi lo).toNat = hi.toNat * 0x100 + lo.toNat := by
  show (hi ++ lo : BitVec (8 + 8)).toNat = _
  rw [BitVec.toNat_append, ← Nat.shiftLeft_add_eq_or_of_lt (by omega), Nat.shiftLeft_eq]

theorem fieldOp_toNat (w : Word) : (fieldOp w).toNat = w.toNat / 0x1000 := by
  have := w.isLt
  simp only [fieldOp, BitVec.extractLsb'_toNat, Nat.shiftRight_eq_div_pow]; omega

theorem fieldX_toNat (w : Word) : (fieldX w).toNat = w.toNat / 0x100 % 0x10 := by
  simp [fieldX, BitVec.extractLsb'_toNat, Nat.shiftRight_eq_div_pow]

theorem fieldY_toNat (w : Word) : (fieldY w).toNat = w.toNat / 0x10 % 0x10 := by
  simp [fieldY, BitVec.extractLsb'_toNat, Nat.shiftRight_eq_div_pow]

theorem fieldN_toNat (w : Word) : (fieldN w).toNat = w.toNat % 0x10 := by
  simp [fieldN, BitVec.extractLsb'_toNat]

theorem fieldNN_toNat (w : Word) : (fieldNN w).toNat = w.toNat % 0x100 := by
  simp [fieldNN, BitVec.extractLsb'_toNat]

theorem fieldNNN_toNat (w : Word) : (fieldNNN w).toNat = w.toNat % 0x1000 := by
  simp [fieldNNN, BitVec.extractLsb'_toNat]

theorem highByte_toNat (w : Word) : (highByte w).toNat = w.toNat / 0x100 := by
  have := w.isLt
  simp only [highByte, BitVec.extractLsb'_toNat, Nat.shiftRight_eq_div_pow]; omega

theorem lowByte_toNat (w : Word) : (lowByte w).toNat = w.toNat % 0x100 := by
  simp [lowByte, BitVec.extractLsb'_toNat]

/-! ## The fields of a formatted word -/

theorem fieldOp_wordNNN (op : Nibble) (nnn : Addr) : fieldOp (wordNNN op nnn) = op := by
  apply BitVec.eq_of_toNat_eq; rw [fieldOp_toNat, wordNNN_toNat]; omega

theorem fieldNNN_wordNNN (op : Nibble) (nnn : Addr) : fieldNNN (wordNNN op nnn) = nnn := by
  apply BitVec.eq_of_toNat_eq; rw [fieldNNN_toNat, wordNNN_toNat]; omega

theorem fieldOp_wordXNN (op : Nibble) (x : Reg) (nn : Byte) : fieldOp (wordXNN op x nn) = op := by
  apply BitVec.eq_of_toNat_eq; rw [fieldOp_toNat, wordXNN_toNat]; omega

theorem fieldX_wordXNN (op : Nibble) (x : Reg) (nn : Byte) : fieldX (wordXNN op x nn) = x := by
  apply BitVec.eq_of_toNat_eq; rw [fieldX_toNat, wordXNN_toNat]; omega

theorem fieldNN_wordXNN (op : Nibble) (x : Reg) (nn : Byte) : fieldNN (wordXNN op x nn) = nn := by
  apply BitVec.eq_of_toNat_eq; rw [fieldNN_toNat, wordXNN_toNat]; omega

theorem fieldOp_wordXYN (op : Nibble) (x y : Reg) (n : Nibble) : fieldOp (wordXYN op x y n) = op := by
  apply BitVec.eq_of_toNat_eq; rw [fieldOp_toNat, wordXYN_toNat]; omega

theorem fieldX_wordXYN (op : Nibble) (x y : Reg) (n : Nibble) : fieldX (wordXYN op x y n) = x := by
  apply BitVec.eq_of_toNat_eq; rw [fieldX_toNat, wordXYN_toNat]; omega

theorem fieldY_wordXYN (op : Nibble) (x y : Reg) (n : Nibble) : fieldY (wordXYN op x y n) = y := by
  apply BitVec.eq_of_toNat_eq; rw [fieldY_toNat, wordXYN_toNat]; omega

theorem fieldN_wordXYN (op : Nibble) (x y : Reg) (n : Nibble) : fieldN (wordXYN op x y n) = n := by
  apply BitVec.eq_of_toNat_eq; rw [fieldN_toNat, wordXYN_toNat]; omega

/-! ## A word is its fields -/

theorem wordNNN_fields (w : Word) : wordNNN (fieldOp w) (fieldNNN w) = w := by
  apply BitVec.eq_of_toNat_eq; rw [wordNNN_toNat, fieldOp_toNat, fieldNNN_toNat]; omega

theorem wordXNN_fields (w : Word) : wordXNN (fieldOp w) (fieldX w) (fieldNN w) = w := by
  apply BitVec.eq_of_toNat_eq; rw [wordXNN_toNat, fieldOp_toNat, fieldX_toNat, fieldNN_toNat]; omega

theorem wordXYN_fields (w : Word) : wordXYN (fieldOp w) (fieldX w) (fieldY w) (fieldN w) = w := by
  apply BitVec.eq_of_toNat_eq; rw [wordXYN_toNat, fieldOp_toNat, fieldX_toNat, fieldY_toNat, fieldN_toNat]; omega

theorem wordOfBytes_highByte_lowByte (w : Word) : wordOfBytes (highByte w) (lowByte w) = w := by
  apply BitVec.eq_of_toNat_eq; rw [wordOfBytes_toNat, highByte_toNat, lowByte_toNat]; omega

/-! ## Masked words: what the table's three masks keep -/

theorem and_F000 (w : Word) : w &&& 0xF000#16 = wordNNN (fieldOp w) 0#12 := by
  apply BitVec.eq_of_getLsbD_eq
  intro i hi
  rw [show (wordNNN (fieldOp w) 0#12).getLsbD i = (fieldOp w ++ 0#12 : BitVec (4 + 12)).getLsbD i from rfl]
  simp only [BitVec.getLsbD_and, BitVec.getLsbD_append, fieldOp, BitVec.getLsbD_extractLsb']
  interval_cases i <;> simp

theorem and_F00F (w : Word) : w &&& 0xF00F#16 = wordXYN (fieldOp w) 0#4 0#4 (fieldN w) := by
  apply BitVec.eq_of_getLsbD_eq
  intro i hi
  rw [show (wordXYN (fieldOp w) 0#4 0#4 (fieldN w)).getLsbD i =
    (fieldOp w ++ 0#4 ++ 0#4 ++ fieldN w : BitVec (4 + 4 + 4 + 4)).getLsbD i from rfl]
  simp only [BitVec.getLsbD_and, BitVec.getLsbD_append, fieldOp, fieldN, BitVec.getLsbD_extractLsb']
  interval_cases i <;> simp

theorem and_F0FF (w : Word) : w &&& 0xF0FF#16 = wordXNN (fieldOp w) 0#4 (fieldNN w) := by
  apply BitVec.eq_of_getLsbD_eq
  intro i hi
  rw [show (wordXNN (fieldOp w) 0#4 (fieldNN w)).getLsbD i =
    (fieldOp w ++ 0#4 ++ fieldNN w : BitVec (4 + 4 + 8)).getLsbD i from rfl]
  simp only [BitVec.getLsbD_and, BitVec.getLsbD_append, fieldOp, fieldNN, BitVec.getLsbD_extractLsb']
  interval_cases i <;> simp

/-- 0NNN is 00E0 only for NNN = 0E0. -/
theorem wordNNN_eq_cls (nnn : Addr) : wordNNN 0x0#4 nnn = 0x00E0#16 ↔ nnn = 0x0E0#12 := by
  rw [← BitVec.toNat_inj, ← BitVec.toNat_inj, wordNNN_toNat]; simp

/-- 0NNN is 00EE only for NNN = 0EE. -/
theorem wordNNN_eq_ret (nnn : Addr) : wordNNN 0x0#4 nnn = 0x00EE#16 ↔ nnn = 0x0EE#12 := by
  rw [← BitVec.toNat_inj, ← BitVec.toNat_inj, wordNNN_toNat]; simp

end Sys2Proof
end

