-- ==== Sys2Proof/Laws/State.lean ====
section
/-! SUPPORT. One lemma for each field under each single-field write of Machine/Ops.lean, and the reads (registers,
bytes, pixels, keys, data addresses) under the same writes, so that no later proof unfolds a record update. -/

namespace Sys2Proof.Machine

/-! ## `setReg` -/

@[simp] theorem State.setReg_regs (s : State) (r : Reg) (v : Byte) : (s.setReg r v).regs = s.regs.set r.toNat v r.isLt := rfl
@[simp] theorem State.setReg_I (s : State) (r : Reg) (v : Byte) : (s.setReg r v).I = s.I := rfl
@[simp] theorem State.setReg_pc (s : State) (r : Reg) (v : Byte) : (s.setReg r v).pc = s.pc := rfl
@[simp] theorem State.setReg_stack (s : State) (r : Reg) (v : Byte) : (s.setReg r v).stack = s.stack := rfl
@[simp] theorem State.setReg_sp (s : State) (r : Reg) (v : Byte) : (s.setReg r v).sp = s.sp := rfl
@[simp] theorem State.setReg_dt (s : State) (r : Reg) (v : Byte) : (s.setReg r v).dt = s.dt := rfl
@[simp] theorem State.setReg_st (s : State) (r : Reg) (v : Byte) : (s.setReg r v).st = s.st := rfl
@[simp] theorem State.setReg_display (s : State) (r : Reg) (v : Byte) : (s.setReg r v).display = s.display := rfl
@[simp] theorem State.setReg_keypad (s : State) (r : Reg) (v : Byte) : (s.setReg r v).keypad = s.keypad := rfl
@[simp] theorem State.setReg_drawPending (s : State) (r : Reg) (v : Byte) : (s.setReg r v).drawPending = s.drawPending := rfl
@[simp] theorem State.setReg_waiting (s : State) (r : Reg) (v : Byte) : (s.setReg r v).waiting = s.waiting := rfl
@[simp] theorem State.setReg_memory (s : State) (r : Reg) (v : Byte) : (s.setReg r v).memory = s.memory := rfl
@[simp] theorem State.setReg_config (s : State) (r : Reg) (v : Byte) : (s.setReg r v).config = s.config := rfl
@[simp] theorem State.setReg_freeCount (s : State) (r : Reg) (v : Byte) : (s.setReg r v).freeCount = s.freeCount := rfl

/-! ## `setRegs` -/

@[simp] theorem State.setRegs_regs (s : State) (v : Vector Byte 16) : (s.setRegs v).regs = v := rfl
@[simp] theorem State.setRegs_I (s : State) (v : Vector Byte 16) : (s.setRegs v).I = s.I := rfl
@[simp] theorem State.setRegs_pc (s : State) (v : Vector Byte 16) : (s.setRegs v).pc = s.pc := rfl
@[simp] theorem State.setRegs_stack (s : State) (v : Vector Byte 16) : (s.setRegs v).stack = s.stack := rfl
@[simp] theorem State.setRegs_sp (s : State) (v : Vector Byte 16) : (s.setRegs v).sp = s.sp := rfl
@[simp] theorem State.setRegs_dt (s : State) (v : Vector Byte 16) : (s.setRegs v).dt = s.dt := rfl
@[simp] theorem State.setRegs_st (s : State) (v : Vector Byte 16) : (s.setRegs v).st = s.st := rfl
@[simp] theorem State.setRegs_display (s : State) (v : Vector Byte 16) : (s.setRegs v).display = s.display := rfl
@[simp] theorem State.setRegs_keypad (s : State) (v : Vector Byte 16) : (s.setRegs v).keypad = s.keypad := rfl
@[simp] theorem State.setRegs_drawPending (s : State) (v : Vector Byte 16) : (s.setRegs v).drawPending = s.drawPending := rfl
@[simp] theorem State.setRegs_waiting (s : State) (v : Vector Byte 16) : (s.setRegs v).waiting = s.waiting := rfl
@[simp] theorem State.setRegs_memory (s : State) (v : Vector Byte 16) : (s.setRegs v).memory = s.memory := rfl
@[simp] theorem State.setRegs_config (s : State) (v : Vector Byte 16) : (s.setRegs v).config = s.config := rfl
@[simp] theorem State.setRegs_freeCount (s : State) (v : Vector Byte 16) : (s.setRegs v).freeCount = s.freeCount := rfl

/-! ## `setI` -/

@[simp] theorem State.setI_regs (s : State) (v : Word) : (s.setI v).regs = s.regs := rfl
@[simp] theorem State.setI_I (s : State) (v : Word) : (s.setI v).I = v := rfl
@[simp] theorem State.setI_pc (s : State) (v : Word) : (s.setI v).pc = s.pc := rfl
@[simp] theorem State.setI_stack (s : State) (v : Word) : (s.setI v).stack = s.stack := rfl
@[simp] theorem State.setI_sp (s : State) (v : Word) : (s.setI v).sp = s.sp := rfl
@[simp] theorem State.setI_dt (s : State) (v : Word) : (s.setI v).dt = s.dt := rfl
@[simp] theorem State.setI_st (s : State) (v : Word) : (s.setI v).st = s.st := rfl
@[simp] theorem State.setI_display (s : State) (v : Word) : (s.setI v).display = s.display := rfl
@[simp] theorem State.setI_keypad (s : State) (v : Word) : (s.setI v).keypad = s.keypad := rfl
@[simp] theorem State.setI_drawPending (s : State) (v : Word) : (s.setI v).drawPending = s.drawPending := rfl
@[simp] theorem State.setI_waiting (s : State) (v : Word) : (s.setI v).waiting = s.waiting := rfl
@[simp] theorem State.setI_memory (s : State) (v : Word) : (s.setI v).memory = s.memory := rfl
@[simp] theorem State.setI_config (s : State) (v : Word) : (s.setI v).config = s.config := rfl
@[simp] theorem State.setI_freeCount (s : State) (v : Word) : (s.setI v).freeCount = s.freeCount := rfl

/-! ## `setPc` -/

@[simp] theorem State.setPc_regs (s : State) (v : Word) : (s.setPc v).regs = s.regs := rfl
@[simp] theorem State.setPc_I (s : State) (v : Word) : (s.setPc v).I = s.I := rfl
@[simp] theorem State.setPc_pc (s : State) (v : Word) : (s.setPc v).pc = v := rfl
@[simp] theorem State.setPc_stack (s : State) (v : Word) : (s.setPc v).stack = s.stack := rfl
@[simp] theorem State.setPc_sp (s : State) (v : Word) : (s.setPc v).sp = s.sp := rfl
@[simp] theorem State.setPc_dt (s : State) (v : Word) : (s.setPc v).dt = s.dt := rfl
@[simp] theorem State.setPc_st (s : State) (v : Word) : (s.setPc v).st = s.st := rfl
@[simp] theorem State.setPc_display (s : State) (v : Word) : (s.setPc v).display = s.display := rfl
@[simp] theorem State.setPc_keypad (s : State) (v : Word) : (s.setPc v).keypad = s.keypad := rfl
@[simp] theorem State.setPc_drawPending (s : State) (v : Word) : (s.setPc v).drawPending = s.drawPending := rfl
@[simp] theorem State.setPc_waiting (s : State) (v : Word) : (s.setPc v).waiting = s.waiting := rfl
@[simp] theorem State.setPc_memory (s : State) (v : Word) : (s.setPc v).memory = s.memory := rfl
@[simp] theorem State.setPc_config (s : State) (v : Word) : (s.setPc v).config = s.config := rfl
@[simp] theorem State.setPc_freeCount (s : State) (v : Word) : (s.setPc v).freeCount = s.freeCount := rfl

/-! ## `setDt` -/

@[simp] theorem State.setDt_regs (s : State) (v : Byte) : (s.setDt v).regs = s.regs := rfl
@[simp] theorem State.setDt_I (s : State) (v : Byte) : (s.setDt v).I = s.I := rfl
@[simp] theorem State.setDt_pc (s : State) (v : Byte) : (s.setDt v).pc = s.pc := rfl
@[simp] theorem State.setDt_stack (s : State) (v : Byte) : (s.setDt v).stack = s.stack := rfl
@[simp] theorem State.setDt_sp (s : State) (v : Byte) : (s.setDt v).sp = s.sp := rfl
@[simp] theorem State.setDt_dt (s : State) (v : Byte) : (s.setDt v).dt = v := rfl
@[simp] theorem State.setDt_st (s : State) (v : Byte) : (s.setDt v).st = s.st := rfl
@[simp] theorem State.setDt_display (s : State) (v : Byte) : (s.setDt v).display = s.display := rfl
@[simp] theorem State.setDt_keypad (s : State) (v : Byte) : (s.setDt v).keypad = s.keypad := rfl
@[simp] theorem State.setDt_drawPending (s : State) (v : Byte) : (s.setDt v).drawPending = s.drawPending := rfl
@[simp] theorem State.setDt_waiting (s : State) (v : Byte) : (s.setDt v).waiting = s.waiting := rfl
@[simp] theorem State.setDt_memory (s : State) (v : Byte) : (s.setDt v).memory = s.memory := rfl
@[simp] theorem State.setDt_config (s : State) (v : Byte) : (s.setDt v).config = s.config := rfl
@[simp] theorem State.setDt_freeCount (s : State) (v : Byte) : (s.setDt v).freeCount = s.freeCount := rfl

/-! ## `setSt` -/

@[simp] theorem State.setSt_regs (s : State) (v : Byte) : (s.setSt v).regs = s.regs := rfl
@[simp] theorem State.setSt_I (s : State) (v : Byte) : (s.setSt v).I = s.I := rfl
@[simp] theorem State.setSt_pc (s : State) (v : Byte) : (s.setSt v).pc = s.pc := rfl
@[simp] theorem State.setSt_stack (s : State) (v : Byte) : (s.setSt v).stack = s.stack := rfl
@[simp] theorem State.setSt_sp (s : State) (v : Byte) : (s.setSt v).sp = s.sp := rfl
@[simp] theorem State.setSt_dt (s : State) (v : Byte) : (s.setSt v).dt = s.dt := rfl
@[simp] theorem State.setSt_st (s : State) (v : Byte) : (s.setSt v).st = v := rfl
@[simp] theorem State.setSt_display (s : State) (v : Byte) : (s.setSt v).display = s.display := rfl
@[simp] theorem State.setSt_keypad (s : State) (v : Byte) : (s.setSt v).keypad = s.keypad := rfl
@[simp] theorem State.setSt_drawPending (s : State) (v : Byte) : (s.setSt v).drawPending = s.drawPending := rfl
@[simp] theorem State.setSt_waiting (s : State) (v : Byte) : (s.setSt v).waiting = s.waiting := rfl
@[simp] theorem State.setSt_memory (s : State) (v : Byte) : (s.setSt v).memory = s.memory := rfl
@[simp] theorem State.setSt_config (s : State) (v : Byte) : (s.setSt v).config = s.config := rfl
@[simp] theorem State.setSt_freeCount (s : State) (v : Byte) : (s.setSt v).freeCount = s.freeCount := rfl

/-! ## `setDisplay` -/

@[simp] theorem State.setDisplay_regs (s : State) (v : BitVec pixelCount) : (s.setDisplay v).regs = s.regs := rfl
@[simp] theorem State.setDisplay_I (s : State) (v : BitVec pixelCount) : (s.setDisplay v).I = s.I := rfl
@[simp] theorem State.setDisplay_pc (s : State) (v : BitVec pixelCount) : (s.setDisplay v).pc = s.pc := rfl
@[simp] theorem State.setDisplay_stack (s : State) (v : BitVec pixelCount) : (s.setDisplay v).stack = s.stack := rfl
@[simp] theorem State.setDisplay_sp (s : State) (v : BitVec pixelCount) : (s.setDisplay v).sp = s.sp := rfl
@[simp] theorem State.setDisplay_dt (s : State) (v : BitVec pixelCount) : (s.setDisplay v).dt = s.dt := rfl
@[simp] theorem State.setDisplay_st (s : State) (v : BitVec pixelCount) : (s.setDisplay v).st = s.st := rfl
@[simp] theorem State.setDisplay_display (s : State) (v : BitVec pixelCount) : (s.setDisplay v).display = v := rfl
@[simp] theorem State.setDisplay_keypad (s : State) (v : BitVec pixelCount) : (s.setDisplay v).keypad = s.keypad := rfl
@[simp] theorem State.setDisplay_drawPending (s : State) (v : BitVec pixelCount) : (s.setDisplay v).drawPending = s.drawPending := rfl
@[simp] theorem State.setDisplay_waiting (s : State) (v : BitVec pixelCount) : (s.setDisplay v).waiting = s.waiting := rfl
@[simp] theorem State.setDisplay_memory (s : State) (v : BitVec pixelCount) : (s.setDisplay v).memory = s.memory := rfl
@[simp] theorem State.setDisplay_config (s : State) (v : BitVec pixelCount) : (s.setDisplay v).config = s.config := rfl
@[simp] theorem State.setDisplay_freeCount (s : State) (v : BitVec pixelCount) : (s.setDisplay v).freeCount = s.freeCount := rfl

/-! ## `setDrawPending` -/

@[simp] theorem State.setDrawPending_regs (s : State) (v : Bool) : (s.setDrawPending v).regs = s.regs := rfl
@[simp] theorem State.setDrawPending_I (s : State) (v : Bool) : (s.setDrawPending v).I = s.I := rfl
@[simp] theorem State.setDrawPending_pc (s : State) (v : Bool) : (s.setDrawPending v).pc = s.pc := rfl
@[simp] theorem State.setDrawPending_stack (s : State) (v : Bool) : (s.setDrawPending v).stack = s.stack := rfl
@[simp] theorem State.setDrawPending_sp (s : State) (v : Bool) : (s.setDrawPending v).sp = s.sp := rfl
@[simp] theorem State.setDrawPending_dt (s : State) (v : Bool) : (s.setDrawPending v).dt = s.dt := rfl
@[simp] theorem State.setDrawPending_st (s : State) (v : Bool) : (s.setDrawPending v).st = s.st := rfl
@[simp] theorem State.setDrawPending_display (s : State) (v : Bool) : (s.setDrawPending v).display = s.display := rfl
@[simp] theorem State.setDrawPending_keypad (s : State) (v : Bool) : (s.setDrawPending v).keypad = s.keypad := rfl
@[simp] theorem State.setDrawPending_drawPending (s : State) (v : Bool) : (s.setDrawPending v).drawPending = v := rfl
@[simp] theorem State.setDrawPending_waiting (s : State) (v : Bool) : (s.setDrawPending v).waiting = s.waiting := rfl
@[simp] theorem State.setDrawPending_memory (s : State) (v : Bool) : (s.setDrawPending v).memory = s.memory := rfl
@[simp] theorem State.setDrawPending_config (s : State) (v : Bool) : (s.setDrawPending v).config = s.config := rfl
@[simp] theorem State.setDrawPending_freeCount (s : State) (v : Bool) : (s.setDrawPending v).freeCount = s.freeCount := rfl

/-! ## `setWaiting` -/

@[simp] theorem State.setWaiting_regs (s : State) (v : Option Reg) : (s.setWaiting v).regs = s.regs := rfl
@[simp] theorem State.setWaiting_I (s : State) (v : Option Reg) : (s.setWaiting v).I = s.I := rfl
@[simp] theorem State.setWaiting_pc (s : State) (v : Option Reg) : (s.setWaiting v).pc = s.pc := rfl
@[simp] theorem State.setWaiting_stack (s : State) (v : Option Reg) : (s.setWaiting v).stack = s.stack := rfl
@[simp] theorem State.setWaiting_sp (s : State) (v : Option Reg) : (s.setWaiting v).sp = s.sp := rfl
@[simp] theorem State.setWaiting_dt (s : State) (v : Option Reg) : (s.setWaiting v).dt = s.dt := rfl
@[simp] theorem State.setWaiting_st (s : State) (v : Option Reg) : (s.setWaiting v).st = s.st := rfl
@[simp] theorem State.setWaiting_display (s : State) (v : Option Reg) : (s.setWaiting v).display = s.display := rfl
@[simp] theorem State.setWaiting_keypad (s : State) (v : Option Reg) : (s.setWaiting v).keypad = s.keypad := rfl
@[simp] theorem State.setWaiting_drawPending (s : State) (v : Option Reg) : (s.setWaiting v).drawPending = s.drawPending := rfl
@[simp] theorem State.setWaiting_waiting (s : State) (v : Option Reg) : (s.setWaiting v).waiting = v := rfl
@[simp] theorem State.setWaiting_memory (s : State) (v : Option Reg) : (s.setWaiting v).memory = s.memory := rfl
@[simp] theorem State.setWaiting_config (s : State) (v : Option Reg) : (s.setWaiting v).config = s.config := rfl
@[simp] theorem State.setWaiting_freeCount (s : State) (v : Option Reg) : (s.setWaiting v).freeCount = s.freeCount := rfl

/-! ## `setKeypad` -/

@[simp] theorem State.setKeypad_regs (s : State) (v : Vector Bool 16) : (s.setKeypad v).regs = s.regs := rfl
@[simp] theorem State.setKeypad_I (s : State) (v : Vector Bool 16) : (s.setKeypad v).I = s.I := rfl
@[simp] theorem State.setKeypad_pc (s : State) (v : Vector Bool 16) : (s.setKeypad v).pc = s.pc := rfl
@[simp] theorem State.setKeypad_stack (s : State) (v : Vector Bool 16) : (s.setKeypad v).stack = s.stack := rfl
@[simp] theorem State.setKeypad_sp (s : State) (v : Vector Bool 16) : (s.setKeypad v).sp = s.sp := rfl
@[simp] theorem State.setKeypad_dt (s : State) (v : Vector Bool 16) : (s.setKeypad v).dt = s.dt := rfl
@[simp] theorem State.setKeypad_st (s : State) (v : Vector Bool 16) : (s.setKeypad v).st = s.st := rfl
@[simp] theorem State.setKeypad_display (s : State) (v : Vector Bool 16) : (s.setKeypad v).display = s.display := rfl
@[simp] theorem State.setKeypad_keypad (s : State) (v : Vector Bool 16) : (s.setKeypad v).keypad = v := rfl
@[simp] theorem State.setKeypad_drawPending (s : State) (v : Vector Bool 16) : (s.setKeypad v).drawPending = s.drawPending := rfl
@[simp] theorem State.setKeypad_waiting (s : State) (v : Vector Bool 16) : (s.setKeypad v).waiting = s.waiting := rfl
@[simp] theorem State.setKeypad_memory (s : State) (v : Vector Bool 16) : (s.setKeypad v).memory = s.memory := rfl
@[simp] theorem State.setKeypad_config (s : State) (v : Vector Bool 16) : (s.setKeypad v).config = s.config := rfl
@[simp] theorem State.setKeypad_freeCount (s : State) (v : Vector Bool 16) : (s.setKeypad v).freeCount = s.freeCount := rfl

/-! ## `setMemory` -/

@[simp] theorem State.setMemory_regs (s : State) (v : Memory) : (s.setMemory v).regs = s.regs := rfl
@[simp] theorem State.setMemory_I (s : State) (v : Memory) : (s.setMemory v).I = s.I := rfl
@[simp] theorem State.setMemory_pc (s : State) (v : Memory) : (s.setMemory v).pc = s.pc := rfl
@[simp] theorem State.setMemory_stack (s : State) (v : Memory) : (s.setMemory v).stack = s.stack := rfl
@[simp] theorem State.setMemory_sp (s : State) (v : Memory) : (s.setMemory v).sp = s.sp := rfl
@[simp] theorem State.setMemory_dt (s : State) (v : Memory) : (s.setMemory v).dt = s.dt := rfl
@[simp] theorem State.setMemory_st (s : State) (v : Memory) : (s.setMemory v).st = s.st := rfl
@[simp] theorem State.setMemory_display (s : State) (v : Memory) : (s.setMemory v).display = s.display := rfl
@[simp] theorem State.setMemory_keypad (s : State) (v : Memory) : (s.setMemory v).keypad = s.keypad := rfl
@[simp] theorem State.setMemory_drawPending (s : State) (v : Memory) : (s.setMemory v).drawPending = s.drawPending := rfl
@[simp] theorem State.setMemory_waiting (s : State) (v : Memory) : (s.setMemory v).waiting = s.waiting := rfl
@[simp] theorem State.setMemory_memory (s : State) (v : Memory) : (s.setMemory v).memory = v := rfl
@[simp] theorem State.setMemory_config (s : State) (v : Memory) : (s.setMemory v).config = s.config := rfl
@[simp] theorem State.setMemory_freeCount (s : State) (v : Memory) : (s.setMemory v).freeCount = s.freeCount := rfl

/-! ## `setStack` -/

@[simp] theorem State.setStack_regs (s : State) (v : Vector Word 16) (n : Fin 17) : (s.setStack v n).regs = s.regs := rfl
@[simp] theorem State.setStack_I (s : State) (v : Vector Word 16) (n : Fin 17) : (s.setStack v n).I = s.I := rfl
@[simp] theorem State.setStack_pc (s : State) (v : Vector Word 16) (n : Fin 17) : (s.setStack v n).pc = s.pc := rfl
@[simp] theorem State.setStack_stack (s : State) (v : Vector Word 16) (n : Fin 17) : (s.setStack v n).stack = v := rfl
@[simp] theorem State.setStack_sp (s : State) (v : Vector Word 16) (n : Fin 17) : (s.setStack v n).sp = n := rfl
@[simp] theorem State.setStack_dt (s : State) (v : Vector Word 16) (n : Fin 17) : (s.setStack v n).dt = s.dt := rfl
@[simp] theorem State.setStack_st (s : State) (v : Vector Word 16) (n : Fin 17) : (s.setStack v n).st = s.st := rfl
@[simp] theorem State.setStack_display (s : State) (v : Vector Word 16) (n : Fin 17) : (s.setStack v n).display = s.display := rfl
@[simp] theorem State.setStack_keypad (s : State) (v : Vector Word 16) (n : Fin 17) : (s.setStack v n).keypad = s.keypad := rfl
@[simp] theorem State.setStack_drawPending (s : State) (v : Vector Word 16) (n : Fin 17) : (s.setStack v n).drawPending = s.drawPending := rfl
@[simp] theorem State.setStack_waiting (s : State) (v : Vector Word 16) (n : Fin 17) : (s.setStack v n).waiting = s.waiting := rfl
@[simp] theorem State.setStack_memory (s : State) (v : Vector Word 16) (n : Fin 17) : (s.setStack v n).memory = s.memory := rfl
@[simp] theorem State.setStack_config (s : State) (v : Vector Word 16) (n : Fin 17) : (s.setStack v n).config = s.config := rfl
@[simp] theorem State.setStack_freeCount (s : State) (v : Vector Word 16) (n : Fin 17) : (s.setStack v n).freeCount = s.freeCount := rfl

/-! ## `countFree` -/

@[simp] theorem State.countFree_regs (s : State) : s.countFree.regs = s.regs := rfl
@[simp] theorem State.countFree_I (s : State) : s.countFree.I = s.I := rfl
@[simp] theorem State.countFree_pc (s : State) : s.countFree.pc = s.pc := rfl
@[simp] theorem State.countFree_stack (s : State) : s.countFree.stack = s.stack := rfl
@[simp] theorem State.countFree_sp (s : State) : s.countFree.sp = s.sp := rfl
@[simp] theorem State.countFree_dt (s : State) : s.countFree.dt = s.dt := rfl
@[simp] theorem State.countFree_st (s : State) : s.countFree.st = s.st := rfl
@[simp] theorem State.countFree_display (s : State) : s.countFree.display = s.display := rfl
@[simp] theorem State.countFree_keypad (s : State) : s.countFree.keypad = s.keypad := rfl
@[simp] theorem State.countFree_drawPending (s : State) : s.countFree.drawPending = s.drawPending := rfl
@[simp] theorem State.countFree_waiting (s : State) : s.countFree.waiting = s.waiting := rfl
@[simp] theorem State.countFree_memory (s : State) : s.countFree.memory = s.memory := rfl
@[simp] theorem State.countFree_config (s : State) : s.countFree.config = s.config := rfl
@[simp] theorem State.countFree_freeCount (s : State) : s.countFree.freeCount = s.freeCount + 1 := rfl

/-! ## Reads under the writes that do not touch what they read -/

@[simp] theorem State.reg_setI (s : State) (v : Word) (k : Reg) : (s.setI v).reg k = s.reg k := rfl
@[simp] theorem State.reg_setPc (s : State) (v : Word) (k : Reg) : (s.setPc v).reg k = s.reg k := rfl
@[simp] theorem State.reg_setDt (s : State) (v : Byte) (k : Reg) : (s.setDt v).reg k = s.reg k := rfl
@[simp] theorem State.reg_setSt (s : State) (v : Byte) (k : Reg) : (s.setSt v).reg k = s.reg k := rfl
@[simp] theorem State.reg_setDisplay (s : State) (v : BitVec pixelCount) (k : Reg) : (s.setDisplay v).reg k = s.reg k := rfl
@[simp] theorem State.reg_setDrawPending (s : State) (v : Bool) (k : Reg) : (s.setDrawPending v).reg k = s.reg k := rfl
@[simp] theorem State.reg_setWaiting (s : State) (v : Option Reg) (k : Reg) : (s.setWaiting v).reg k = s.reg k := rfl
@[simp] theorem State.reg_setKeypad (s : State) (v : Vector Bool 16) (k : Reg) : (s.setKeypad v).reg k = s.reg k := rfl
@[simp] theorem State.reg_setMemory (s : State) (v : Memory) (k : Reg) : (s.setMemory v).reg k = s.reg k := rfl
@[simp] theorem State.reg_setStack (s : State) (v : Vector Word 16) (n : Fin 17) (k : Reg) : (s.setStack v n).reg k = s.reg k := rfl
@[simp] theorem State.reg_countFree (s : State) (k : Reg) : s.countFree.reg k = s.reg k := rfl

@[simp] theorem State.readByte_setReg (s : State) (r : Reg) (v : Byte) (k : Nat) : (s.setReg r v).readByte k = s.readByte k := rfl
@[simp] theorem State.readByte_setRegs (s : State) (v : Vector Byte 16) (k : Nat) : (s.setRegs v).readByte k = s.readByte k := rfl
@[simp] theorem State.readByte_setI (s : State) (v : Word) (k : Nat) : (s.setI v).readByte k = s.readByte k := rfl
@[simp] theorem State.readByte_setPc (s : State) (v : Word) (k : Nat) : (s.setPc v).readByte k = s.readByte k := rfl
@[simp] theorem State.readByte_setDt (s : State) (v : Byte) (k : Nat) : (s.setDt v).readByte k = s.readByte k := rfl
@[simp] theorem State.readByte_setSt (s : State) (v : Byte) (k : Nat) : (s.setSt v).readByte k = s.readByte k := rfl
@[simp] theorem State.readByte_setDisplay (s : State) (v : BitVec pixelCount) (k : Nat) : (s.setDisplay v).readByte k = s.readByte k := rfl
@[simp] theorem State.readByte_setDrawPending (s : State) (v : Bool) (k : Nat) : (s.setDrawPending v).readByte k = s.readByte k := rfl
@[simp] theorem State.readByte_setWaiting (s : State) (v : Option Reg) (k : Nat) : (s.setWaiting v).readByte k = s.readByte k := rfl
@[simp] theorem State.readByte_setKeypad (s : State) (v : Vector Bool 16) (k : Nat) : (s.setKeypad v).readByte k = s.readByte k := rfl
@[simp] theorem State.readByte_setStack (s : State) (v : Vector Word 16) (n : Fin 17) (k : Nat) : (s.setStack v n).readByte k = s.readByte k := rfl
@[simp] theorem State.readByte_countFree (s : State) (k : Nat) : s.countFree.readByte k = s.readByte k := rfl

@[simp] theorem State.pixel_setReg (s : State) (r : Reg) (v : Byte) (k : Nat) : (s.setReg r v).pixel k = s.pixel k := rfl
@[simp] theorem State.pixel_setRegs (s : State) (v : Vector Byte 16) (k : Nat) : (s.setRegs v).pixel k = s.pixel k := rfl
@[simp] theorem State.pixel_setI (s : State) (v : Word) (k : Nat) : (s.setI v).pixel k = s.pixel k := rfl
@[simp] theorem State.pixel_setPc (s : State) (v : Word) (k : Nat) : (s.setPc v).pixel k = s.pixel k := rfl
@[simp] theorem State.pixel_setDt (s : State) (v : Byte) (k : Nat) : (s.setDt v).pixel k = s.pixel k := rfl
@[simp] theorem State.pixel_setSt (s : State) (v : Byte) (k : Nat) : (s.setSt v).pixel k = s.pixel k := rfl
@[simp] theorem State.pixel_setDrawPending (s : State) (v : Bool) (k : Nat) : (s.setDrawPending v).pixel k = s.pixel k := rfl
@[simp] theorem State.pixel_setWaiting (s : State) (v : Option Reg) (k : Nat) : (s.setWaiting v).pixel k = s.pixel k := rfl
@[simp] theorem State.pixel_setKeypad (s : State) (v : Vector Bool 16) (k : Nat) : (s.setKeypad v).pixel k = s.pixel k := rfl
@[simp] theorem State.pixel_setMemory (s : State) (v : Memory) (k : Nat) : (s.setMemory v).pixel k = s.pixel k := rfl
@[simp] theorem State.pixel_setStack (s : State) (v : Vector Word 16) (n : Fin 17) (k : Nat) : (s.setStack v n).pixel k = s.pixel k := rfl
@[simp] theorem State.pixel_countFree (s : State) (k : Nat) : s.countFree.pixel k = s.pixel k := rfl

@[simp] theorem State.key_setReg (s : State) (r : Reg) (v : Byte) (k : Nibble) : (s.setReg r v).key k = s.key k := rfl
@[simp] theorem State.key_setRegs (s : State) (v : Vector Byte 16) (k : Nibble) : (s.setRegs v).key k = s.key k := rfl
@[simp] theorem State.key_setI (s : State) (v : Word) (k : Nibble) : (s.setI v).key k = s.key k := rfl
@[simp] theorem State.key_setPc (s : State) (v : Word) (k : Nibble) : (s.setPc v).key k = s.key k := rfl
@[simp] theorem State.key_setDt (s : State) (v : Byte) (k : Nibble) : (s.setDt v).key k = s.key k := rfl
@[simp] theorem State.key_setSt (s : State) (v : Byte) (k : Nibble) : (s.setSt v).key k = s.key k := rfl
@[simp] theorem State.key_setDisplay (s : State) (v : BitVec pixelCount) (k : Nibble) : (s.setDisplay v).key k = s.key k := rfl
@[simp] theorem State.key_setDrawPending (s : State) (v : Bool) (k : Nibble) : (s.setDrawPending v).key k = s.key k := rfl
@[simp] theorem State.key_setWaiting (s : State) (v : Option Reg) (k : Nibble) : (s.setWaiting v).key k = s.key k := rfl
@[simp] theorem State.key_setMemory (s : State) (v : Memory) (k : Nibble) : (s.setMemory v).key k = s.key k := rfl
@[simp] theorem State.key_setStack (s : State) (v : Vector Word 16) (n : Fin 17) (k : Nibble) : (s.setStack v n).key k = s.key k := rfl
@[simp] theorem State.key_countFree (s : State) (k : Nibble) : s.countFree.key k = s.key k := rfl

@[simp] theorem State.ea_setReg (s : State) (r : Reg) (v : Byte) (k : Nat) : (s.setReg r v).ea k = s.ea k := rfl
@[simp] theorem State.ea_setRegs (s : State) (v : Vector Byte 16) (k : Nat) : (s.setRegs v).ea k = s.ea k := rfl
@[simp] theorem State.ea_setPc (s : State) (v : Word) (k : Nat) : (s.setPc v).ea k = s.ea k := rfl
@[simp] theorem State.ea_setDt (s : State) (v : Byte) (k : Nat) : (s.setDt v).ea k = s.ea k := rfl
@[simp] theorem State.ea_setSt (s : State) (v : Byte) (k : Nat) : (s.setSt v).ea k = s.ea k := rfl
@[simp] theorem State.ea_setDisplay (s : State) (v : BitVec pixelCount) (k : Nat) : (s.setDisplay v).ea k = s.ea k := rfl
@[simp] theorem State.ea_setDrawPending (s : State) (v : Bool) (k : Nat) : (s.setDrawPending v).ea k = s.ea k := rfl
@[simp] theorem State.ea_setWaiting (s : State) (v : Option Reg) (k : Nat) : (s.setWaiting v).ea k = s.ea k := rfl
@[simp] theorem State.ea_setKeypad (s : State) (v : Vector Bool 16) (k : Nat) : (s.setKeypad v).ea k = s.ea k := rfl
@[simp] theorem State.ea_setMemory (s : State) (v : Memory) (k : Nat) : (s.setMemory v).ea k = s.ea k := rfl
@[simp] theorem State.ea_setStack (s : State) (v : Vector Word 16) (n : Fin 17) (k : Nat) : (s.setStack v n).ea k = s.ea k := rfl
@[simp] theorem State.ea_countFree (s : State) (k : Nat) : s.countFree.ea k = s.ea k := rfl

@[simp] theorem State.firstPressed_setReg (s : State) (r : Reg) (v : Byte) : (s.setReg r v).firstPressed = s.firstPressed := rfl
@[simp] theorem State.firstPressed_setRegs (s : State) (v : Vector Byte 16) : (s.setRegs v).firstPressed = s.firstPressed := rfl
@[simp] theorem State.firstPressed_setI (s : State) (v : Word) : (s.setI v).firstPressed = s.firstPressed := rfl
@[simp] theorem State.firstPressed_setPc (s : State) (v : Word) : (s.setPc v).firstPressed = s.firstPressed := rfl
@[simp] theorem State.firstPressed_setDt (s : State) (v : Byte) : (s.setDt v).firstPressed = s.firstPressed := rfl
@[simp] theorem State.firstPressed_setSt (s : State) (v : Byte) : (s.setSt v).firstPressed = s.firstPressed := rfl
@[simp] theorem State.firstPressed_setDisplay (s : State) (v : BitVec pixelCount) : (s.setDisplay v).firstPressed = s.firstPressed := rfl
@[simp] theorem State.firstPressed_setDrawPending (s : State) (v : Bool) : (s.setDrawPending v).firstPressed = s.firstPressed := rfl
@[simp] theorem State.firstPressed_setWaiting (s : State) (v : Option Reg) : (s.setWaiting v).firstPressed = s.firstPressed := rfl
@[simp] theorem State.firstPressed_setMemory (s : State) (v : Memory) : (s.setMemory v).firstPressed = s.firstPressed := rfl
@[simp] theorem State.firstPressed_setStack (s : State) (v : Vector Word 16) (n : Fin 17) : (s.setStack v n).firstPressed = s.firstPressed := rfl
@[simp] theorem State.firstPressed_countFree (s : State) : s.countFree.firstPressed = s.firstPressed := rfl

/-! ## Reads of what was written -/

/-- Register `k` after a write of register `r`. -/
theorem State.reg_setReg (s : State) (r k : Reg) (v : Byte) :
    (s.setReg r v).reg k = if k = r then v else s.reg k := by
  simp only [State.reg, State.setReg, Vector.getElem_set]
  by_cases h : k = r
  · simp [h]
  · rw [if_neg (fun e => h (BitVec.eq_of_toNat_eq e.symm)), if_neg h]

@[simp] theorem State.reg_setReg_same (s : State) (r : Reg) (v : Byte) : (s.setReg r v).reg r = v := by
  simp [State.reg_setReg]

theorem State.reg_setReg_other (s : State) {r k : Reg} (v : Byte) (h : k ≠ r) :
    (s.setReg r v).reg k = s.reg k := by
  simp [State.reg_setReg, h]

@[simp] theorem State.reg_setRegs (s : State) (v : Vector Byte 16) (k : Reg) :
    (s.setRegs v).reg k = v[k.toNat]'k.isLt := rfl

@[simp] theorem State.pixel_setDisplay (s : State) (v : BitVec pixelCount) (p : Nat) :
    (s.setDisplay v).pixel p = v.getLsbD p := rfl

@[simp] theorem State.key_setKeypad (s : State) (v : Vector Bool 16) (k : Nibble) :
    (s.setKeypad v).key k = v[k.toNat]'k.isLt := rfl

@[simp] theorem State.readByte_setMemory (s : State) (m : Memory) (a : Nat) :
    (s.setMemory m).readByte a = Memory.read s.config m a := rfl

end Sys2Proof.Machine
end

