-- ==== Sys2Proof/Laws/Memory.lean ====
section
/-! SUPPORT. The laws of memory: a read after a write, at the written address and elsewhere, and that every memory
operation keeps the canonical form (spec/20_memory.md R50, R61). -/

namespace Sys2Proof.Machine

/-! ## Erase and insert -/

theorem Memory.lookup_erase (m : Memory) (a b : Nat) :
    Memory.lookup (Memory.erase m a) b = if b = a then none else Memory.lookup m b := by
  induction m with
  | nil => simp [Memory.erase, Memory.lookup]
  | cons e m ih =>
    obtain ⟨d, w⟩ := e
    simp only [Memory.erase, Memory.lookup]
    by_cases had : a = d
    · subst had
      by_cases hba : b = a
      · subst hba; simpa using ih
      · simp [ih, hba]
    · by_cases hbd : b = d
      · subst hbd; simp [had, Memory.lookup, Ne.symm had]
      · simp [had, Memory.lookup, hbd, ih]

theorem Memory.lookup_insert (m : Memory) (a : Nat) (v : Byte) (b : Nat) :
    Memory.lookup (Memory.insert m a v) b = if b = a then some v else Memory.lookup m b := by
  induction m with
  | nil => simp [Memory.insert, Memory.lookup]
  | cons e m ih =>
    obtain ⟨d, w⟩ := e
    simp only [Memory.insert]
    split
    · simp [Memory.lookup]
    · split
      · rename_i _ h; subst h
        by_cases hb : b = a <;> simp [Memory.lookup, hb]
      · rename_i _ h
        by_cases hb : b = d
        · subst hb; simp [Memory.lookup, Ne.symm h]
        · simp [Memory.lookup, hb, ih]

/-! ## Read after write -/

/-- A read after a write: the value at the written address, the old byte at every other. -/
theorem Memory.read_write (c : Config) (m : Memory) (a : Nat) (v : Byte) (b : Nat) :
    Memory.read c (Memory.write c m a v) b = if b = a then v else Memory.read c m b := by
  simp only [Memory.read, Memory.write]
  split
  · rename_i h
    rw [Memory.lookup_erase]
    by_cases hb : b = a <;> simp [hb, h]
  · rw [Memory.lookup_insert]
    by_cases hb : b = a <;> simp [hb]

/-- A read after a run of writes, at an address none of them names. -/
theorem Memory.read_writeAll_other (c : Config) (place : Nat → Nat) (vs : List Byte) (k : Nat) (m : Memory) (b : Nat)
    (h : ∀ j, k ≤ j → j < k + vs.length → b ≠ place j) :
    Memory.read c (Memory.writeAll c place k vs m) b = Memory.read c m b := by
  induction vs generalizing k m with
  | nil => rfl
  | cons v vs ih =>
    simp only [Memory.writeAll]
    rw [ih (k + 1) _ (fun j h1 h2 => h j (by omega) (by simp only [List.length_cons]; omega)), Memory.read_write,
      if_neg (h k (Nat.le_refl k) (by simp))]

/-- A read after a run of writes to different addresses, at one of them. -/
theorem Memory.read_writeAll_same (c : Config) (place : Nat → Nat) (vs : List Byte) (k : Nat) (m : Memory) (j : Nat)
    (hj : j < vs.length) (h : ∀ i, k ≤ i → i < k + vs.length → place i = place (k + j) → i = k + j) :
    Memory.read c (Memory.writeAll c place k vs m) (place (k + j)) = vs[j] := by
  induction vs generalizing k m j with
  | nil => simp at hj
  | cons v vs ih =>
    simp only [Memory.writeAll, List.length_cons] at hj h ⊢
    cases j with
    | zero =>
      rw [Memory.read_writeAll_other, Memory.read_write]
      · simp
      · intro i h1 h2 he
        have := h i (by omega) (by omega) he.symm
        omega
    | succ j =>
      have := ih (k + 1) (Memory.write c m (place k) v) j (by omega)
        (fun i h1 h2 he => by
          have := h i (by omega) (by omega) (by rw [he]; congr 1; omega)
          omega)
      rw [show k + (j + 1) = k + 1 + j by omega, this]
      simp

/-! ## The canonical form -/

theorem Memory.mem_erase {m : Memory} {a : Nat} {e : Host.Cell} (h : e ∈ Memory.erase m a) : e ∈ m ∧ e.1 ≠ a := by
  induction m with
  | nil => simp [Memory.erase] at h
  | cons f m ih =>
    obtain ⟨d, w⟩ := f
    simp only [Memory.erase] at h
    split at h
    · exact ⟨List.mem_cons_of_mem _ (ih h).1, (ih h).2⟩
    · rename_i hne
      rcases List.mem_cons.mp h with rfl | h
      · exact ⟨List.mem_cons_self, fun e => hne e.symm⟩
      · exact ⟨List.mem_cons_of_mem _ (ih h).1, (ih h).2⟩

theorem Memory.mem_insert {m : Memory} {a : Nat} {v : Byte} {e : Host.Cell} (h : e ∈ Memory.insert m a v) :
    e = (a, v) ∨ e ∈ m := by
  induction m with
  | nil => simpa [Memory.insert] using h
  | cons f m ih =>
    obtain ⟨d, w⟩ := f
    simp only [Memory.insert] at h
    split at h
    · simpa using h
    · split at h
      · rcases List.mem_cons.mp h with h | h
        · exact .inl h
        · exact .inr (List.mem_cons_of_mem _ h)
      · rcases List.mem_cons.mp h with h | h
        · exact .inr (h ▸ List.mem_cons_self)
        · exact (ih h).imp id (List.mem_cons_of_mem _)

theorem Memory.erase_sorted {m : Memory} (h : m.Pairwise (fun e f => e.1 < f.1)) (a : Nat) :
    (Memory.erase m a).Pairwise (fun e f => e.1 < f.1) := by
  induction m with
  | nil => simp [Memory.erase]
  | cons e m ih =>
    obtain ⟨d, w⟩ := e
    rw [List.pairwise_cons] at h
    simp only [Memory.erase]
    split
    · exact ih h.2
    · exact List.pairwise_cons.mpr ⟨fun f hf => h.1 f (Memory.mem_erase hf).1, ih h.2⟩

theorem Memory.insert_sorted {m : Memory} (h : m.Pairwise (fun e f => e.1 < f.1)) (a : Nat) (v : Byte) :
    (Memory.insert m a v).Pairwise (fun e f => e.1 < f.1) := by
  induction m with
  | nil => simp [Memory.insert]
  | cons e m ih =>
    obtain ⟨d, w⟩ := e
    have h' := List.pairwise_cons.mp h
    simp only [Memory.insert]
    split
    · rename_i hlt
      refine List.pairwise_cons.mpr ⟨fun f hf => ?_, h⟩
      rcases List.mem_cons.mp hf with rfl | hf
      · exact hlt
      · exact Nat.lt_trans hlt (h'.1 f hf)
    · split
      · rename_i _ heq; subst heq
        exact List.pairwise_cons.mpr ⟨h'.1, h'.2⟩
      · refine List.pairwise_cons.mpr ⟨fun f hf => ?_, ih h'.2⟩
        rcases Memory.mem_insert hf with rfl | hf
        · simp only; omega
        · exact h'.1 f hf

/-- A write inside the memory keeps the canonical form. -/
theorem Memory.wf_write {c : Config} {m : Memory} (h : Memory.wf c m) {a : Nat} (ha : a < 0x1000) (v : Byte) :
    Memory.wf c (Memory.write c m a v) := by
  unfold Memory.write
  split
  · exact ⟨Memory.erase_sorted h.1 a, fun e he => h.2 e (Memory.mem_erase he).1⟩
  · rename_i hv
    refine ⟨Memory.insert_sorted h.1 a v, fun e he => ?_⟩
    rcases Memory.mem_insert he with rfl | he
    · exact ⟨ha, hv⟩
    · exact h.2 e he

/-- A run of writes inside the memory keeps the canonical form. -/
theorem Memory.wf_writeAll {c : Config} (place : Nat → Nat) (vs : List Byte) (k : Nat) {m : Memory} (h : Memory.wf c m)
    (hp : ∀ j, k ≤ j → j < k + vs.length → place j < 0x1000) : Memory.wf c (Memory.writeAll c place k vs m) := by
  induction vs generalizing k m with
  | nil => exact h
  | cons v vs ih =>
    exact ih (k + 1) (Memory.wf_write h (hp k (Nat.le_refl k) (by simp)) v)
      (fun j h1 h2 => hp j (by omega) (by simp only [List.length_cons]; omega))

/-- The reset memory, which lists nothing, is canonical. -/
theorem Memory.wf_nil (c : Config) : Memory.wf c [] := by simp [Memory.wf]

/-! ## Data addresses (spec/20_memory.md R53, R59) -/

theorem State.ea_eq_mod (s : State) (k : Nat) : s.ea k = (s.I.toNat + k) % 4096 := by
  simpa [State.ea] using Nat.and_two_pow_sub_one_eq_mod (s.I.toNat + k) 12

theorem State.ea_lt (s : State) (k : Nat) : s.ea k < 0x1000 := by
  rw [State.ea_eq_mod]; omega

/-- The offsets an instruction can use give different addresses. -/
theorem State.ea_inj (s : State) {j k : Nat} (hj : j < 16) (hk : k < 16) (h : s.ea j = s.ea k) : j = k := by
  rw [State.ea_eq_mod, State.ea_eq_mod] at h; omega

/-! ## Stores through `I` -/

theorem State.readByte_storeAtI_same (s : State) (bytes : List Byte) (k : Nat) (hk : k < bytes.length)
    (hn : bytes.length ≤ 16) : (s.storeAtI bytes).readByte (s.ea k) = bytes[k] := by
  have := Memory.read_writeAll_same s.config s.ea bytes 0 s.memory k hk
    (fun i _ h2 he => by
      rw [Nat.zero_add] at h2 he ⊢
      exact s.ea_inj (by omega) (by omega) he)
  rw [Nat.zero_add] at this
  exact this

theorem State.readByte_storeAtI_other (s : State) (bytes : List Byte) (a : Nat)
    (h : ∀ k, k < bytes.length → a ≠ s.ea k) : (s.storeAtI bytes).readByte a = s.readByte a :=
  Memory.read_writeAll_other _ _ _ _ _ _ (fun j _ h2 => h j (by omega))

theorem State.wf_storeAtI {s : State} (h : Memory.wf s.config s.memory) (bytes : List Byte) :
    Memory.wf s.config (s.storeAtI bytes).memory :=
  Memory.wf_writeAll _ _ _ h (fun j _ _ => s.ea_lt j)

end Sys2Proof.Machine
end

