-- ==== Sys2Proof/Laws/Ops.lean ====
section
/-! SUPPORT. One lemma for each shared operation that says what it can do: the end of an instruction, the fatal
results, the return stack, the flag write, the key read and the sprite. -/

namespace Sys2Proof.Machine

/-! ## Ends of an instruction (spec/40_cycle.md R95, R97, R98) -/

theorem complete_eq_next {e : Effect} {s t : State} : complete e s = .next t ↔ t = s.setPc (e.newPc s.pc) := by
  simp [complete, eq_comm]

theorem complete_ne_fault {e : Effect} {s : State} {f : Fault} : complete e s ≠ .fault f := by simp [complete]

theorem complete_ne_refused {e : Effect} {s : State} {r : Refusal} : complete e s ≠ .refused r := by simp [complete]

theorem raiseFatal_ne_next {f : Word → Fault} {s t : State} : raiseFatal f s ≠ .next t := by simp [raiseFatal]

theorem refuse_ne_next {r : Word → Refusal} {s t : State} : refuse r s ≠ .next t := by simp [refuse]

theorem unspecified_of_nop {s : State} (h : s.config.unspecEncoding = .nop) : unspecified s = complete .next s := by
  simp [unspecified, h]

theorem unspecified_of_refuse {s : State} (h : s.config.unspecEncoding = .refuse) :
    unspecified s = .refused (.unspecifiedEncoding s.pc) := by
  simp [unspecified, refuse, h]

/-- If a word without a meaning answers a next state, it was a no-op. -/
theorem unspecified_eq_next {s t : State} (h : unspecified s = .next t) :
    s.config.unspecEncoding = .nop ∧ t = s.setPc (s.pc + 2#16) := by
  cases hc : s.config.unspecEncoding with
  | refuse => simp [unspecified_of_refuse hc] at h
  | nop => exact ⟨rfl, complete_eq_next.mp (unspecified_of_nop hc ▸ h)⟩

/-! ## The return stack (R24, R25) -/

theorem State.push_full {s : State} (a : Word) (h : s.sp.val = 16) : s.push a = none := by
  simp [State.push, h]

theorem State.push_room {s : State} (a : Word) (k : Fin 16) (h : s.sp.val = k.val) :
    s.push a = some (s.setStack (s.stack.set k.val a) k.succ) := by
  simp only [State.push, h, k.isLt, dite_true]
  rfl

theorem State.pop_empty {s : State} (h : s.sp.val = 0) : s.pop = none := by
  simp [State.pop, h]

theorem State.pop_live {s : State} (k : Fin 16) (h : s.sp.val = k.val + 1) :
    s.pop = some (s.stack[k], s.setStack s.stack k.castSucc) := by
  simp only [State.pop, h]
  rfl

/-- A push that succeeds wrote one entry and raised the pointer by one. -/
theorem State.push_eq_some {s t : State} {a : Word} (h : s.push a = some t) :
    ∃ k : Fin 16, s.sp.val = k.val ∧ t = s.setStack (s.stack.set k.val a) k.succ := by
  by_cases hs : s.sp.val < 16
  · refine ⟨⟨s.sp.val, hs⟩, rfl, ?_⟩
    rw [State.push_room a ⟨s.sp.val, hs⟩ rfl] at h
    exact (Option.some.inj h).symm
  · simp [State.push, hs] at h

/-- A pop that succeeds read the entry below the pointer and lowered the pointer by one. -/
theorem State.pop_eq_some {s t : State} {a : Word} (h : s.pop = some (a, t)) :
    ∃ k : Fin 16, s.sp.val = k.val + 1 ∧ a = s.stack[k] ∧ t = s.setStack s.stack k.castSucc := by
  by_cases hs : 0 < s.sp.val
  · have hlt := s.sp.isLt
    have hk : s.sp.val = (⟨s.sp.val - 1, by omega⟩ : Fin 16).val + 1 := by simp only; omega
    rw [State.pop_live _ hk] at h
    exact ⟨_, hk, by simpa using (congrArg Prod.fst (Option.some.inj h)).symm,
      (congrArg Prod.snd (Option.some.inj h)).symm⟩
  · simp [State.pop, hs] at h

theorem State.push_eq_none {s : State} {a : Word} (h : s.push a = none) : s.sp.val = 16 := by
  by_cases hs : s.sp.val < 16
  · simp [State.push, hs] at h
  · have := s.sp.isLt; omega

theorem State.pop_eq_none {s : State} (h : s.pop = none) : s.sp.val = 0 := by
  by_cases hs : 0 < s.sp.val
  · simp [State.pop, hs] at h
  · omega

/-! ## Flag and result (R121) -/

/-- The flag write changes registers only. -/
theorem State.writeFlagAndResult_eq (s : State) (x : Reg) (flag result : Byte) :
    s.writeFlagAndResult x flag result = s.setRegs (s.writeFlagAndResult x flag result).regs := by
  cases h : s.config.vfOrder <;> simp [State.writeFlagAndResult, h, State.setReg, State.setRegs]

@[simp] theorem State.writeFlagAndResult_I (s : State) (x : Reg) (flag result : Byte) :
    (s.writeFlagAndResult x flag result).I = s.I := by rw [s.writeFlagAndResult_eq]; rfl

@[simp] theorem State.writeFlagAndResult_pc (s : State) (x : Reg) (flag result : Byte) :
    (s.writeFlagAndResult x flag result).pc = s.pc := by rw [s.writeFlagAndResult_eq]; rfl

@[simp] theorem State.writeFlagAndResult_stack (s : State) (x : Reg) (flag result : Byte) :
    (s.writeFlagAndResult x flag result).stack = s.stack := by rw [s.writeFlagAndResult_eq]; rfl

@[simp] theorem State.writeFlagAndResult_sp (s : State) (x : Reg) (flag result : Byte) :
    (s.writeFlagAndResult x flag result).sp = s.sp := by rw [s.writeFlagAndResult_eq]; rfl

@[simp] theorem State.writeFlagAndResult_dt (s : State) (x : Reg) (flag result : Byte) :
    (s.writeFlagAndResult x flag result).dt = s.dt := by rw [s.writeFlagAndResult_eq]; rfl

@[simp] theorem State.writeFlagAndResult_st (s : State) (x : Reg) (flag result : Byte) :
    (s.writeFlagAndResult x flag result).st = s.st := by rw [s.writeFlagAndResult_eq]; rfl

@[simp] theorem State.writeFlagAndResult_display (s : State) (x : Reg) (flag result : Byte) :
    (s.writeFlagAndResult x flag result).display = s.display := by rw [s.writeFlagAndResult_eq]; rfl

@[simp] theorem State.writeFlagAndResult_keypad (s : State) (x : Reg) (flag result : Byte) :
    (s.writeFlagAndResult x flag result).keypad = s.keypad := by rw [s.writeFlagAndResult_eq]; rfl

@[simp] theorem State.writeFlagAndResult_drawPending (s : State) (x : Reg) (flag result : Byte) :
    (s.writeFlagAndResult x flag result).drawPending = s.drawPending := by rw [s.writeFlagAndResult_eq]; rfl

@[simp] theorem State.writeFlagAndResult_waiting (s : State) (x : Reg) (flag result : Byte) :
    (s.writeFlagAndResult x flag result).waiting = s.waiting := by rw [s.writeFlagAndResult_eq]; rfl

@[simp] theorem State.writeFlagAndResult_memory (s : State) (x : Reg) (flag result : Byte) :
    (s.writeFlagAndResult x flag result).memory = s.memory := by rw [s.writeFlagAndResult_eq]; rfl

@[simp] theorem State.writeFlagAndResult_config (s : State) (x : Reg) (flag result : Byte) :
    (s.writeFlagAndResult x flag result).config = s.config := by rw [s.writeFlagAndResult_eq]; rfl

@[simp] theorem State.writeFlagAndResult_freeCount (s : State) (x : Reg) (flag result : Byte) :
    (s.writeFlagAndResult x flag result).freeCount = s.freeCount := by rw [s.writeFlagAndResult_eq]; rfl

theorem State.reg_writeFlagAndResult_result (s : State) {x : Reg} (flag result : Byte) (h : x ≠ .vf) :
    (s.writeFlagAndResult x flag result).reg x = result := by
  cases ho : s.config.vfOrder <;> simp [State.writeFlagAndResult, ho, State.reg_setReg, h]

theorem State.reg_writeFlagAndResult_flag (s : State) {x : Reg} (flag result : Byte) (h : x ≠ .vf) :
    (s.writeFlagAndResult x flag result).reg .vf = flag := by
  cases ho : s.config.vfOrder <;> simp [State.writeFlagAndResult, ho, State.reg_setReg, Ne.symm h]

theorem State.reg_writeFlagAndResult_vf (s : State) (flag result : Byte) :
    (s.writeFlagAndResult .vf flag result).reg .vf =
      (match s.config.vfOrder with | .tableOrder => result | .flagLast => flag) := by
  cases ho : s.config.vfOrder <;> simp [State.writeFlagAndResult, ho]

theorem State.reg_writeFlagAndResult_other (s : State) {x k : Reg} (flag result : Byte) (hx : k ≠ x) (hf : k ≠ .vf) :
    (s.writeFlagAndResult x flag result).reg k = s.reg k := by
  cases ho : s.config.vfOrder <;> simp [State.writeFlagAndResult, ho, State.reg_setReg, hx, hf]

/-! ## The key read (spec/45_keys_timers.md R170) -/

/-- What a key read can answer: a refusal under `refuse`; the key and the same state; or a free value. -/
theorem State.readKey_cases (s : State) (v : Byte) :
    (15 < v.toNat ∧ s.config.keyIndexPolicy = .refuse ∧ s.readKey v = .error (.keyIndexOutOfRange s.pc)) ∨
    (15 < v.toNat ∧ s.config.keyIndexPolicy = .anyValue ∧
      s.readKey v = .ok (Config.keyBeyond s.freeCount v, s.countFree)) ∨
    (15 < v.toNat ∧ s.config.keyIndexPolicy = .notPressed ∧ s.readKey v = .ok (false, s)) ∨
    ((v.toNat ≤ 15 ∨ s.config.keyIndexPolicy = .lowNibble) ∧ s.readKey v = .ok (s.key (v.setWidth 4), s)) := by
  by_cases hv : v.toNat ≤ 15
  · exact .inr (.inr (.inr ⟨.inl hv, by simp [State.readKey, hv]⟩))
  · have hv' : 15 < v.toNat := by omega
    cases hc : s.config.keyIndexPolicy <;> simp [State.readKey, hv, hv', hc]

/-! ## Program load (spec/70_reset_and_hazards.md R212, R213) -/

theorem loadProgram_too_large {bytes : List Byte} (s : State) (h : 3584 < bytes.length) :
    loadProgram bytes s = .fault (.programTooLarge bytes.length) := by
  unfold loadProgram maxProgramLength
  exact if_pos h

theorem loadProgram_fits {bytes : List Byte} (s : State) (h : bytes.length ≤ 3584) :
    loadProgram bytes s = .next (s.hostReset.setMemory
      (Memory.writeAll s.config (fun k => programBase + k) 0 bytes s.hostReset.memory)) := by
  unfold loadProgram maxProgramLength
  exact if_neg (Nat.not_lt.mpr h)

/-! ## The sprite (spec/44_display.md R161, R162) -/

/-- One toggle: the pixel named, if it is on the screen, flips; no other pixel changes. -/
theorem Canvas.toggle_pixel (c : Canvas) (col row p : Nat) :
    (c.toggle col row).display.getLsbD p =
      (c.display.getLsbD p ^^ decide (col < 64 ∧ row < 32 ∧ p = col + 64 * row)) := by
  unfold Canvas.toggle
  split
  · rename_i h
    have hlt : col + 64 * row < 2048 := by omega
    simp only [BitVec.getLsbD_xor, BitVec.getLsbD_shiftLeft, BitVec.getLsbD_one, h.1, h.2, true_and]
    congr 1
    by_cases hp : p = col + 64 * row
    · subst hp; simp; omega
    · simp only [hp, decide_false, Bool.and_eq_false_iff, decide_eq_false_iff_not, Bool.not_eq_false',
        decide_eq_true_eq]
      omega
  · rename_i h
    rw [not_and] at h
    by_cases hc : col < 64
    · simp [h hc]
    · simp [hc]

/-- One toggle: a collision is an earlier one, or a pixel on the screen that was set. -/
theorem Canvas.toggle_collision (c : Canvas) (col row : Nat) :
    (c.toggle col row).collision =
      (c.collision || (decide (col < 64 ∧ row < 32) && c.display.getLsbD (col + 64 * row))) := by
  unfold Canvas.toggle
  split <;> simp [*]

/-- Bit `b` of a sprite row is drawn: it is set and falls inside the screen. -/
def bitDrawn (bits : Byte) (x0 row b : Nat) : Prop := bits.getLsbD (7 - b) = true ∧ x0 + b < 64 ∧ row < 32

/-- One bit of a sprite row. -/
def Canvas.drawBit (bits : Byte) (x0 row : Nat) (c : Canvas) (b : Nat) : Canvas :=
  if bits.getLsbD (7 - b) then c.toggle (x0 + b) row else c

theorem Canvas.drawBit_pixel (bits : Byte) (x0 row : Nat) (c : Canvas) (b p : Nat) :
    (bitDrawn bits x0 row b ∧ p = x0 + b + 64 * row →
      (c.drawBit bits x0 row b).display.getLsbD p = !c.display.getLsbD p) ∧
    (¬ (bitDrawn bits x0 row b ∧ p = x0 + b + 64 * row) →
      (c.drawBit bits x0 row b).display.getLsbD p = c.display.getLsbD p) := by
  unfold Canvas.drawBit bitDrawn
  split
  · rename_i hb
    rw [Canvas.toggle_pixel]
    constructor
    · rintro ⟨⟨_, h1, h2⟩, h3⟩; simp [h1, h2, h3]
    · intro h
      have : ¬ (x0 + b < 64 ∧ row < 32 ∧ p = x0 + b + 64 * row) := fun ⟨h1, h2, h3⟩ => h ⟨⟨hb, h1, h2⟩, h3⟩
      simp [this]
  · rename_i hb
    exact ⟨fun h => absurd h.1.1 hb, fun _ => rfl⟩

theorem Canvas.drawBit_collision (bits : Byte) (x0 row : Nat) (c : Canvas) (b : Nat) :
    (c.drawBit bits x0 row b).collision = true ↔
      c.collision = true ∨ (bitDrawn bits x0 row b ∧ c.display.getLsbD (x0 + b + 64 * row) = true) := by
  unfold Canvas.drawBit bitDrawn
  split
  · rename_i hb
    rw [Canvas.toggle_collision]; simp [hb]
  · rename_i hb
    simp [hb]

/-- A row's first `m` bits: the pixels of the bits drawn flip, no other pixel changes, and a collision is an earlier
one or a pixel drawn that was set before the row. -/
theorem Canvas.drawBits_spec (bits : Byte) (x0 row : Nat) (c : Canvas) (m : Nat) :
    (∀ p, (∃ b, b < m ∧ bitDrawn bits x0 row b ∧ p = x0 + b + 64 * row) →
      ((List.range m).foldl (Canvas.drawBit bits x0 row) c).display.getLsbD p = !c.display.getLsbD p) ∧
    (∀ p, ¬ (∃ b, b < m ∧ bitDrawn bits x0 row b ∧ p = x0 + b + 64 * row) →
      ((List.range m).foldl (Canvas.drawBit bits x0 row) c).display.getLsbD p = c.display.getLsbD p) ∧
    (((List.range m).foldl (Canvas.drawBit bits x0 row) c).collision = true ↔ c.collision = true ∨
      ∃ b, b < m ∧ bitDrawn bits x0 row b ∧ c.display.getLsbD (x0 + b + 64 * row) = true) := by
  induction m with
  | zero => simp
  | succ m ih =>
    obtain ⟨ih1, ih2, ih3⟩ := ih
    rw [List.range_succ, List.foldl_append]
    simp only [List.foldl_cons, List.foldl_nil]
    generalize (List.range m).foldl (Canvas.drawBit bits x0 row) c = d at ih1 ih2 ih3
    refine ⟨fun p hp => ?_, fun p hp => ?_, ?_⟩
    · obtain ⟨b, hb, hd, rfl⟩ := hp
      by_cases hbm : b = m
      · subst hbm
        rw [(Canvas.drawBit_pixel bits x0 row d b _).1 ⟨hd, rfl⟩, ih2 _ (by rintro ⟨j, hj, _, he⟩; omega)]
      · rw [(Canvas.drawBit_pixel bits x0 row d m _).2 (by rintro ⟨_, he⟩; omega),
          ih1 _ ⟨b, by omega, hd, rfl⟩]
    · rw [(Canvas.drawBit_pixel bits x0 row d m p).2 (fun ⟨hd, he⟩ => hp ⟨m, by omega, hd, he⟩),
        ih2 p (fun ⟨b, hb, hd, he⟩ => hp ⟨b, by omega, hd, he⟩)]
    · rw [Canvas.drawBit_collision, ih3, ih2 _ (by rintro ⟨j, hj, _, he⟩; omega)]
      constructor
      · rintro ((h | ⟨b, hb, h⟩) | h)
        · exact .inl h
        · exact .inr ⟨b, by omega, h⟩
        · exact .inr ⟨m, by omega, h⟩
      · rintro (h | ⟨b, hb, h⟩)
        · exact .inl (.inl h)
        · by_cases hbm : b = m
          · exact .inr (hbm ▸ h)
          · exact .inl (.inr ⟨b, by omega, h⟩)

theorem Canvas.drawRow_eq (c : Canvas) (bits : Byte) (x0 row : Nat) :
    c.drawRow bits x0 row = (List.range 8).foldl (Canvas.drawBit bits x0 row) c := rfl

/-- Pixel `p` is drawn by one of the first `m` rows of a sprite whose row `r` is `rows r`. -/
def rowsDraw (rows : Nat → Byte) (x0 y0 m p : Nat) : Prop :=
  ∃ r b, r < m ∧ b < 8 ∧ bitDrawn (rows r) x0 (y0 + r) b ∧ p = x0 + b + 64 * (y0 + r)

/-- A sprite's first `m` rows: the pixels drawn flip, no other pixel changes, and there is a collision exactly when a
pixel drawn was set before the draw. -/
theorem Canvas.drawRows_spec (rows : Nat → Byte) (x0 y0 : Nat) (c : Canvas) (m : Nat) :
    (∀ p, rowsDraw rows x0 y0 m p →
      ((List.range m).foldl (fun c r => c.drawRow (rows r) x0 (y0 + r)) c).display.getLsbD p = !c.display.getLsbD p) ∧
    (∀ p, ¬ rowsDraw rows x0 y0 m p →
      ((List.range m).foldl (fun c r => c.drawRow (rows r) x0 (y0 + r)) c).display.getLsbD p = c.display.getLsbD p) ∧
    (((List.range m).foldl (fun c r => c.drawRow (rows r) x0 (y0 + r)) c).collision = true ↔ c.collision = true ∨
      ∃ p, rowsDraw rows x0 y0 m p ∧ c.display.getLsbD p = true) := by
  induction m with
  | zero => simp [rowsDraw]
  | succ m ih =>
    obtain ⟨ih1, ih2, ih3⟩ := ih
    rw [List.range_succ, List.foldl_append]
    simp only [List.foldl_cons, List.foldl_nil, Canvas.drawRow_eq]
    simp only [Canvas.drawRow_eq] at ih1 ih2 ih3
    generalize (List.range m).foldl
      (fun c r => (List.range 8).foldl (Canvas.drawBit (rows r) x0 (y0 + r)) c) c = d at ih1 ih2 ih3
    obtain ⟨b1, b2, b3⟩ := Canvas.drawBits_spec (rows m) x0 (y0 + m) d 8
    -- a pixel of row m is drawn by no earlier row
    have apart : ∀ b, b < 8 → x0 + b < 64 → ¬ rowsDraw rows x0 y0 m (x0 + b + 64 * (y0 + m)) := by
      rintro b _ hx ⟨r, j, hr, _, ⟨_, hj, _⟩, he⟩; omega
    refine ⟨fun p hp => ?_, fun p hp => ?_, ?_⟩
    · obtain ⟨r, b, hr, hb, hd, rfl⟩ := hp
      by_cases hrm : r = m
      · subst hrm
        rw [b1 _ ⟨b, hb, hd, rfl⟩, ih2 _ (apart b hb hd.2.1)]
      · rw [b2 _ (by
            rintro ⟨j, _, ⟨_, hj, _⟩, he⟩
            have := hd.2.1
            omega),
          ih1 _ ⟨r, b, by omega, hb, hd, rfl⟩]
    · rw [b2 p (fun ⟨b, hb, hd, he⟩ => hp ⟨m, b, by omega, hb, hd, he⟩),
        ih2 p (fun ⟨r, b, hr, h⟩ => hp ⟨r, b, by omega, h⟩)]
    · rw [b3, ih3]
      constructor
      · rintro ((h | ⟨p, ⟨r, b, hr, h⟩, hp⟩) | ⟨b, hb, hd, hp⟩)
        · exact .inl h
        · exact .inr ⟨p, ⟨r, b, by omega, h⟩, hp⟩
        · rw [ih2 _ (apart b hb hd.2.1)] at hp
          exact .inr ⟨_, ⟨m, b, by omega, hb, hd, rfl⟩, hp⟩
      · rintro (h | ⟨p, ⟨r, b, hr, hb, hd, rfl⟩, hp⟩)
        · exact .inl (.inl h)
        · by_cases hrm : r = m
          · subst hrm
            exact .inr ⟨b, hb, hd, by rw [ih2 _ (apart b hb hd.2.1)]; exact hp⟩
          · exact .inl (.inr ⟨_, ⟨r, b, by omega, hb, hd, rfl⟩, hp⟩)

end Sys2Proof.Machine
end

