-- ==== Sys2Proof/Laws/PerInstr.lean ====
section
/-! SUPPORT. Per-instruction laws: each instruction's encoding has the fixed bits of its own row of
spec/opcode_table.json, whatever its fields hold. -/

namespace Sys2Proof.Laws

/-- The encoding of the instruction matches the mask and match of its row of the opcode table. -/
def RowHolds.Statement (i : Instr) : Prop := ∃ r, opcodeTable[i.tableIndex]? = some r ∧ r.holds (encode i) = true

theorem RowHolds.cls : RowHolds.Statement .cls :=
  ⟨_, rfl, by decide⟩

theorem RowHolds.ret : RowHolds.Statement .ret :=
  ⟨_, rfl, by decide⟩

theorem RowHolds.sys (nnn : Addr) : RowHolds.Statement (.sys nnn) :=
  ⟨_, rfl, by simp [TableRow.holds, encode, and_F000, fieldOp_wordNNN]; rfl⟩

theorem RowHolds.jp (nnn : Addr) : RowHolds.Statement (.jp nnn) :=
  ⟨_, rfl, by simp [TableRow.holds, encode, and_F000, fieldOp_wordNNN]; rfl⟩

theorem RowHolds.call (nnn : Addr) : RowHolds.Statement (.call nnn) :=
  ⟨_, rfl, by simp [TableRow.holds, encode, and_F000, fieldOp_wordNNN]; rfl⟩

theorem RowHolds.seImm (x : Reg) (nn : Byte) : RowHolds.Statement (.seImm x nn) :=
  ⟨_, rfl, by simp [TableRow.holds, encode, and_F000, fieldOp_wordXNN]; rfl⟩

theorem RowHolds.sneImm (x : Reg) (nn : Byte) : RowHolds.Statement (.sneImm x nn) :=
  ⟨_, rfl, by simp [TableRow.holds, encode, and_F000, fieldOp_wordXNN]; rfl⟩

theorem RowHolds.seReg (x : Reg) (y : Reg) : RowHolds.Statement (.seReg x y) :=
  ⟨_, rfl, by simp [TableRow.holds, encode, and_F00F, fieldOp_wordXYN, fieldN_wordXYN]; rfl⟩

theorem RowHolds.ldImm (x : Reg) (nn : Byte) : RowHolds.Statement (.ldImm x nn) :=
  ⟨_, rfl, by simp [TableRow.holds, encode, and_F000, fieldOp_wordXNN]; rfl⟩

theorem RowHolds.addImm (x : Reg) (nn : Byte) : RowHolds.Statement (.addImm x nn) :=
  ⟨_, rfl, by simp [TableRow.holds, encode, and_F000, fieldOp_wordXNN]; rfl⟩

theorem RowHolds.ldReg (x : Reg) (y : Reg) : RowHolds.Statement (.ldReg x y) :=
  ⟨_, rfl, by simp [TableRow.holds, encode, and_F00F, fieldOp_wordXYN, fieldN_wordXYN]; rfl⟩

theorem RowHolds.orReg (x : Reg) (y : Reg) : RowHolds.Statement (.orReg x y) :=
  ⟨_, rfl, by simp [TableRow.holds, encode, and_F00F, fieldOp_wordXYN, fieldN_wordXYN]; rfl⟩

theorem RowHolds.andReg (x : Reg) (y : Reg) : RowHolds.Statement (.andReg x y) :=
  ⟨_, rfl, by simp [TableRow.holds, encode, and_F00F, fieldOp_wordXYN, fieldN_wordXYN]; rfl⟩

theorem RowHolds.xorReg (x : Reg) (y : Reg) : RowHolds.Statement (.xorReg x y) :=
  ⟨_, rfl, by simp [TableRow.holds, encode, and_F00F, fieldOp_wordXYN, fieldN_wordXYN]; rfl⟩

theorem RowHolds.addReg (x : Reg) (y : Reg) : RowHolds.Statement (.addReg x y) :=
  ⟨_, rfl, by simp [TableRow.holds, encode, and_F00F, fieldOp_wordXYN, fieldN_wordXYN]; rfl⟩

theorem RowHolds.sub (x : Reg) (y : Reg) : RowHolds.Statement (.sub x y) :=
  ⟨_, rfl, by simp [TableRow.holds, encode, and_F00F, fieldOp_wordXYN, fieldN_wordXYN]; rfl⟩

theorem RowHolds.shr (x : Reg) (y : Reg) : RowHolds.Statement (.shr x y) :=
  ⟨_, rfl, by simp [TableRow.holds, encode, and_F00F, fieldOp_wordXYN, fieldN_wordXYN]; rfl⟩

theorem RowHolds.subn (x : Reg) (y : Reg) : RowHolds.Statement (.subn x y) :=
  ⟨_, rfl, by simp [TableRow.holds, encode, and_F00F, fieldOp_wordXYN, fieldN_wordXYN]; rfl⟩

theorem RowHolds.shl (x : Reg) (y : Reg) : RowHolds.Statement (.shl x y) :=
  ⟨_, rfl, by simp [TableRow.holds, encode, and_F00F, fieldOp_wordXYN, fieldN_wordXYN]; rfl⟩

theorem RowHolds.sneReg (x : Reg) (y : Reg) : RowHolds.Statement (.sneReg x y) :=
  ⟨_, rfl, by simp [TableRow.holds, encode, and_F00F, fieldOp_wordXYN, fieldN_wordXYN]; rfl⟩

theorem RowHolds.ldI (nnn : Addr) : RowHolds.Statement (.ldI nnn) :=
  ⟨_, rfl, by simp [TableRow.holds, encode, and_F000, fieldOp_wordNNN]; rfl⟩

theorem RowHolds.jpV0 (nnn : Addr) : RowHolds.Statement (.jpV0 nnn) :=
  ⟨_, rfl, by simp [TableRow.holds, encode, and_F000, fieldOp_wordNNN]; rfl⟩

theorem RowHolds.rnd (x : Reg) (nn : Byte) : RowHolds.Statement (.rnd x nn) :=
  ⟨_, rfl, by simp [TableRow.holds, encode, and_F000, fieldOp_wordXNN]; rfl⟩

theorem RowHolds.drw (x : Reg) (y : Reg) (n : Nibble) : RowHolds.Statement (.drw x y n) :=
  ⟨_, rfl, by simp [TableRow.holds, encode, and_F000, fieldOp_wordXYN]; rfl⟩

theorem RowHolds.skp (x : Reg) : RowHolds.Statement (.skp x) :=
  ⟨_, rfl, by simp [TableRow.holds, encode, and_F0FF, fieldOp_wordXNN, fieldNN_wordXNN]; rfl⟩

theorem RowHolds.sknp (x : Reg) : RowHolds.Statement (.sknp x) :=
  ⟨_, rfl, by simp [TableRow.holds, encode, and_F0FF, fieldOp_wordXNN, fieldNN_wordXNN]; rfl⟩

theorem RowHolds.ldVxDt (x : Reg) : RowHolds.Statement (.ldVxDt x) :=
  ⟨_, rfl, by simp [TableRow.holds, encode, and_F0FF, fieldOp_wordXNN, fieldNN_wordXNN]; rfl⟩

theorem RowHolds.ldVxK (x : Reg) : RowHolds.Statement (.ldVxK x) :=
  ⟨_, rfl, by simp [TableRow.holds, encode, and_F0FF, fieldOp_wordXNN, fieldNN_wordXNN]; rfl⟩

theorem RowHolds.ldDtVx (x : Reg) : RowHolds.Statement (.ldDtVx x) :=
  ⟨_, rfl, by simp [TableRow.holds, encode, and_F0FF, fieldOp_wordXNN, fieldNN_wordXNN]; rfl⟩

theorem RowHolds.ldStVx (x : Reg) : RowHolds.Statement (.ldStVx x) :=
  ⟨_, rfl, by simp [TableRow.holds, encode, and_F0FF, fieldOp_wordXNN, fieldNN_wordXNN]; rfl⟩

theorem RowHolds.addI (x : Reg) : RowHolds.Statement (.addI x) :=
  ⟨_, rfl, by simp [TableRow.holds, encode, and_F0FF, fieldOp_wordXNN, fieldNN_wordXNN]; rfl⟩

theorem RowHolds.ldF (x : Reg) : RowHolds.Statement (.ldF x) :=
  ⟨_, rfl, by simp [TableRow.holds, encode, and_F0FF, fieldOp_wordXNN, fieldNN_wordXNN]; rfl⟩

theorem RowHolds.ldB (x : Reg) : RowHolds.Statement (.ldB x) :=
  ⟨_, rfl, by simp [TableRow.holds, encode, and_F0FF, fieldOp_wordXNN, fieldNN_wordXNN]; rfl⟩

theorem RowHolds.ldMemVx (x : Reg) : RowHolds.Statement (.ldMemVx x) :=
  ⟨_, rfl, by simp [TableRow.holds, encode, and_F0FF, fieldOp_wordXNN, fieldNN_wordXNN]; rfl⟩

theorem RowHolds.ldVxMem (x : Reg) : RowHolds.Statement (.ldVxMem x) :=
  ⟨_, rfl, by simp [TableRow.holds, encode, and_F0FF, fieldOp_wordXNN, fieldNN_wordXNN]; rfl⟩

theorem RowHolds.nop88 (x : Reg) (y : Reg) : RowHolds.Statement (.nop88 x y) :=
  ⟨_, rfl, by simp [TableRow.holds, encode, and_F00F, fieldOp_wordXYN, fieldN_wordXYN]; rfl⟩

theorem RowHolds.nop89 (x : Reg) (y : Reg) : RowHolds.Statement (.nop89 x y) :=
  ⟨_, rfl, by simp [TableRow.holds, encode, and_F00F, fieldOp_wordXYN, fieldN_wordXYN]; rfl⟩

theorem RowHolds.nop8A (x : Reg) (y : Reg) : RowHolds.Statement (.nop8A x y) :=
  ⟨_, rfl, by simp [TableRow.holds, encode, and_F00F, fieldOp_wordXYN, fieldN_wordXYN]; rfl⟩

theorem RowHolds.nop8B (x : Reg) (y : Reg) : RowHolds.Statement (.nop8B x y) :=
  ⟨_, rfl, by simp [TableRow.holds, encode, and_F00F, fieldOp_wordXYN, fieldN_wordXYN]; rfl⟩

theorem RowHolds.nop8C (x : Reg) (y : Reg) : RowHolds.Statement (.nop8C x y) :=
  ⟨_, rfl, by simp [TableRow.holds, encode, and_F00F, fieldOp_wordXYN, fieldN_wordXYN]; rfl⟩

theorem RowHolds.nop8D (x : Reg) (y : Reg) : RowHolds.Statement (.nop8D x y) :=
  ⟨_, rfl, by simp [TableRow.holds, encode, and_F00F, fieldOp_wordXYN, fieldN_wordXYN]; rfl⟩

theorem RowHolds.nop8F (x : Reg) (y : Reg) : RowHolds.Statement (.nop8F x y) :=
  ⟨_, rfl, by simp [TableRow.holds, encode, and_F00F, fieldOp_wordXYN, fieldN_wordXYN]; rfl⟩

theorem RowHolds.nopF (x : Reg) (nn : Byte) : RowHolds.Statement (.nopF x nn) :=
  ⟨_, rfl, by simp [TableRow.holds, encode, and_F000, fieldOp_wordXNN]; rfl⟩

theorem RowHolds.unspec5 (x : Reg) (y : Reg) (n : Nibble) : RowHolds.Statement (.unspec5 x y n) :=
  ⟨_, rfl, by simp [TableRow.holds, encode, and_F000, fieldOp_wordXYN]; rfl⟩

theorem RowHolds.unspec9 (x : Reg) (y : Reg) (n : Nibble) : RowHolds.Statement (.unspec9 x y n) :=
  ⟨_, rfl, by simp [TableRow.holds, encode, and_F000, fieldOp_wordXYN]; rfl⟩

theorem RowHolds.unspecE (x : Reg) (nn : Byte) : RowHolds.Statement (.unspecE x nn) :=
  ⟨_, rfl, by simp [TableRow.holds, encode, and_F000, fieldOp_wordXNN]; rfl⟩

end Sys2Proof.Laws
end

