-- ==== Sys2Proof/Laws/Step.lean ====
section
/-! SUPPORT. What a step can do, said once: the key-wait phase, the fetch, and the instructions whose next state is not
read off their definition by `complete_eq_next` (spec/40_cycle.md R90 to R95). -/

namespace Sys2Proof.Machine

/-! ## The key-wait phase (R91) -/

/-- A key-wait phase leaves the state as it is, with no key pressed, or stores the key, ends the wait and advances. -/
theorem keyWait_eq_next {r : Reg} {s t : State} (h : keyWait r s = .next t) :
    (s.firstPressed = none ∧ t = s) ∨
    ∃ k, s.firstPressed = some k ∧
      t = ((s.setReg r (BitVec.ofNat 8 k)).setWaiting none).setPc (s.pc + 2#16) := by
  unfold keyWait at h
  split at h
  · rename_i k hk
    exact .inr ⟨k, hk, complete_eq_next.mp h⟩
  · rename_i hk
    cases h
    exact .inl ⟨hk, rfl⟩

theorem keyWait_ne_fault {r : Reg} {s : State} {f : Fault} : keyWait r s ≠ .fault f := by
  unfold keyWait; split <;> simp [complete]

theorem keyWait_ne_refused {r : Reg} {s : State} {q : Refusal} : keyWait r s ≠ .refused q := by
  unfold keyWait; split <;> simp [complete]

/-! ## The step (R90, R92, R93) -/

theorem step_of_waiting {s : State} {r : Reg} (h : s.waiting = some r) : step s = keyWait r s := by
  simp [step, h]

theorem step_of_fetch {s : State} (h : s.waiting = none) (hp : s.pc.toNat ≤ 0xFFE) :
    step s = exec (decodeWord s.fetchWord) s := by
  simp only [step, h, State.fetch]
  rw [if_neg (Nat.not_lt.mpr hp)]

theorem step_of_trap {s : State} (h : s.waiting = none) (hp : 0xFFE < s.pc.toNat) :
    step s = .fault (.fatalTrap s.pc) := by
  simp only [step, h, State.fetch]
  rw [if_pos hp]

/-- Every step is one of three: a key-wait phase, a fetch past the memory, or an instruction. -/
theorem step_cases (s : State) :
    (∃ r, s.waiting = some r ∧ step s = keyWait r s) ∨
    (s.waiting = none ∧ 0xFFE < s.pc.toNat ∧ step s = .fault (.fatalTrap s.pc)) ∨
    (s.waiting = none ∧ s.pc.toNat ≤ 0xFFE ∧ step s = exec (decodeWord s.fetchWord) s) := by
  cases h : s.waiting with
  | some r => exact .inl ⟨r, rfl, step_of_waiting h⟩
  | none =>
    rcases Nat.lt_or_ge 0xFFE s.pc.toNat with hp | hp
    · exact .inr (.inl ⟨rfl, hp, step_of_trap h hp⟩)
    · exact .inr (.inr ⟨rfl, hp, step_of_fetch h hp⟩)

/-! ## Next states of the instructions that can stop -/

theorem execRet_eq_next {s t : State} (h : execRet s = .next t) :
    ∃ k : Fin 16, s.sp.val = k.val + 1 ∧ t = (s.setStack s.stack k.castSucc).setPc s.stack[k] := by
  unfold execRet at h
  split at h
  · exact absurd h raiseFatal_ne_next
  · rename_i hp
    obtain ⟨k, hk, rfl, rfl⟩ := State.pop_eq_some hp
    exact ⟨k, hk, complete_eq_next.mp h⟩

theorem execCall_eq_next {nnn : Addr} {s t : State} (h : execCall nnn s = .next t) :
    ∃ k : Fin 16, s.sp.val = k.val ∧
      t = (s.setStack (s.stack.set k.val (s.pc + 2#16)) k.succ).setPc (nnn.setWidth 16) := by
  unfold execCall at h
  split at h
  · exact absurd h raiseFatal_ne_next
  · rename_i hp
    obtain ⟨k, hk, rfl⟩ := State.push_eq_some hp
    exact ⟨k, hk, complete_eq_next.mp h⟩

/-- A key skip that answers moved `pc` by 2 or 4, and took a free value or not. -/
theorem execSkp_eq_next {x : Reg} {s t : State} (h : execSkp x s = .next t) :
    ∃ taken, t = s.setPc (Effect.newPc s.pc (.skip taken)) ∨
      t = s.countFree.setPc (Effect.newPc s.pc (.skip taken)) := by
  unfold execSkp at h
  rcases s.readKey_cases (s.reg x) with ⟨_, _, hk⟩ | ⟨_, _, hk⟩ | ⟨_, _, hk⟩ | ⟨_, hk⟩ <;> rw [hk] at h
  · cases h
  · exact ⟨_, .inr (complete_eq_next.mp h)⟩
  · exact ⟨_, .inl (complete_eq_next.mp h)⟩
  · exact ⟨_, .inl (complete_eq_next.mp h)⟩

theorem execSknp_eq_next {x : Reg} {s t : State} (h : execSknp x s = .next t) :
    ∃ taken, t = s.setPc (Effect.newPc s.pc (.skip taken)) ∨
      t = s.countFree.setPc (Effect.newPc s.pc (.skip taken)) := by
  unfold execSknp at h
  rcases s.readKey_cases (s.reg x) with ⟨_, _, hk⟩ | ⟨_, _, hk⟩ | ⟨_, _, hk⟩ | ⟨_, hk⟩ <;> rw [hk] at h
  · cases h
  · exact ⟨_, .inr (complete_eq_next.mp h)⟩
  · exact ⟨_, .inl (complete_eq_next.mp h)⟩
  · exact ⟨_, .inl (complete_eq_next.mp h)⟩

/-! ## What no step answers -/

/-- ProgramTooLarge belongs to `loadProgram`: no step answers it (spec/60_exceptions.md R184). -/
theorem step_ne_programTooLarge (s : State) (n : Nat) : step s ≠ .fault (.programTooLarge n) := by
  intro h
  rcases step_cases s with ⟨r, _, e⟩ | ⟨_, _, e⟩ | ⟨_, _, e⟩
  · rw [e] at h; exact keyWait_ne_fault h
  · rw [e] at h; cases h
  · rw [e] at h
    cases hd : decodeWord s.fetchWord <;> rw [hd] at h
    case ret => simp only [exec, execRet, raiseFatal] at h; split at h <;> simp [complete] at h
    case call => simp only [exec, execCall, raiseFatal] at h; split at h <;> simp [complete] at h
    case skp => simp only [exec, execSkp] at h; split at h <;> simp [complete] at h
    case sknp => simp only [exec, execSknp] at h; split at h <;> simp [complete] at h
    case unspec5 => simp only [exec, execUnspec5, unspecified, refuse] at h; split at h <;> simp [complete] at h
    case unspec9 => simp only [exec, execUnspec9, unspecified, refuse] at h; split at h <;> simp [complete] at h
    case unspecE => simp only [exec, execUnspecE, unspecified, refuse] at h; split at h <;> simp [complete] at h
    all_goals exact complete_ne_fault h

end Sys2Proof.Machine
end

