-- ==== Sys2Proof/Tests/Slice0.lean ====
section
/-! SUPPORT. Tests. Expected values are those of spec/95_test_vectors.md (named L, V and P there) or worked by hand
from the rule cited; words are written out from spec/30_encoding.md. The second half shows, for each obligation with
hypotheses, states and operands that meet them. -/

namespace Sys2Proof.Tests

open Sys2Proof Sys2Proof.Machine

/-! ## Helpers -/

/-- The result is a next state of which `p` holds. -/
def after (r : Result) (p : State → Bool) : Bool :=
  match r with
  | .next t => p t
  | .fault _ => false
  | .refused _ => false

/-- The result is this fault. -/
def faultIs (r : Result) (f : Fault) : Bool :=
  match r with
  | .fault g => g == f
  | .next _ => false
  | .refused _ => false

/-- The result is this refusal. -/
def refusalIs (r : Result) (f : Refusal) : Bool :=
  match r with
  | .refused g => g == f
  | .next _ => false
  | .fault _ => false

theorem after_next {r : Result} {p : State → Bool} (h : after r p = true) : ∃ t, r = .next t ∧ p t = true := by
  cases r with
  | next t => exact ⟨t, rfl, h⟩
  | fault _ => cases h
  | refused _ => cases h

theorem all_after {α : Type} {l : List α} {f : α → Result} {p : α → State → Bool}
    (h : l.all (fun a => after (f a) (p a)) = true) : ∀ a ∈ l, ∃ t, f a = .next t ∧ p a t = true :=
  fun a ha => after_next (List.all_eq_true.mp h a ha)

theorem faultIs_fault {r : Result} {f : Fault} (h : faultIs r f = true) : r = .fault f := by
  cases r with
  | fault g => exact congrArg _ (eq_of_beq h)
  | next _ => cases h
  | refused _ => cases h

theorem refusalIs_refused {r : Result} {f : Refusal} (h : refusalIs r f = true) : r = .refused f := by
  cases r with
  | refused g => exact congrArg _ (eq_of_beq h)
  | next _ => cases h
  | fault _ => cases h

/-- The reset state with some registers set and the word `w` at 0x200. -/
def start (w : Word) (regs : List (Reg × Byte)) : State :=
  (regs.foldl (fun s e => s.setReg e.1 e.2) State.reset).placeWord w

/-- The spec's default configuration. -/
def specDefault : Config :=
  { defaultConfig with unspecEncoding := .refuse, keyIndexPolicy := .refuse }

/-- The default configuration but for one parameter. -/
def flagLast : Config := { defaultConfig with vfOrder := .flagLast }

def lowNibble : Config := { defaultConfig with keyIndexPolicy := .lowNibble }

def notPressed : Config := { defaultConfig with keyIndexPolicy := .notPressed }

/-- The latch with exactly the listed keys pressed. -/
def keys (l : List Nat) : Vector Bool 16 := Vector.ofFn fun k => l.contains k.val

/-! ## Well-formedness refuses what no word decodes to -/

theorem test_wellFormed_refuses_sys_cls_word : (Instr.sys 0x0E0).wellFormed = false := by decide
theorem test_wellFormed_refuses_sys_ret_word : (Instr.sys 0x0EE).wellFormed = false := by decide
theorem test_wellFormed_refuses_nopF_of_an_F_row : ∀ nn ∈ fLowBytes, (Instr.nopF 1 nn).wellFormed = false := by decide
theorem test_wellFormed_refuses_unspec5_zero : (Instr.unspec5 1 2 0).wellFormed = false := by decide
theorem test_wellFormed_refuses_unspec9_zero : (Instr.unspec9 1 2 0).wellFormed = false := by decide
theorem test_wellFormed_refuses_unspecE_of_an_E_row : ∀ nn ∈ eLowBytes, (Instr.unspecE 1 nn).wellFormed = false := by
  decide
theorem test_wellFormed_admits_neighbours :
    (Instr.sys 0x0E1).wellFormed ∧ (Instr.sys 0xFFF).wellFormed ∧ (Instr.nopF 0 0x17).wellFormed ∧
    (Instr.unspec5 0 0 1).wellFormed ∧ (Instr.unspec9 0 0 0xF).wellFormed ∧ (Instr.unspecE 0 0xFF).wellFormed := by
  decide

/-! ## Every constructor is decoded from a word of its row -/

theorem test_decode_families_0_to_2 :
    decodeWord 0b0000000011100000#16 = .cls ∧ decodeWord 0b0000000011101110#16 = .ret ∧
    decodeWord 0b0000000011100001#16 = .sys 0x0E1 ∧ decodeWord 0b0000000000000000#16 = .sys 0 ∧
    decodeWord 0b0001001000110100#16 = .jp 0x234 ∧ decodeWord 0b0010001100000000#16 = .call 0x300 := by decide

theorem test_decode_families_3_to_7 :
    decodeWord 0b0011001100010000#16 = .seImm 3 0x10 ∧ decodeWord 0b0100001100010001#16 = .sneImm 3 0x11 ∧
    decodeWord 0b0101000100100000#16 = .seReg 1 2 ∧ decodeWord 0b0101000100100001#16 = .unspec5 1 2 1 ∧
    decodeWord 0b0110101000101111#16 = .ldImm 0xA 0x2F ∧ decodeWord 0b0111000100000010#16 = .addImm 1 0x02 := by decide

theorem test_decode_family_8 :
    decodeWord 0b1000000100100000#16 = .ldReg 1 2 ∧ decodeWord 0b1000000100100001#16 = .orReg 1 2 ∧
    decodeWord 0b1000000100100010#16 = .andReg 1 2 ∧ decodeWord 0b1000000100100011#16 = .xorReg 1 2 ∧
    decodeWord 0b1000000100100100#16 = .addReg 1 2 ∧ decodeWord 0b1000000100100101#16 = .sub 1 2 ∧
    decodeWord 0b1000000100100110#16 = .shr 1 2 ∧ decodeWord 0b1000000100100111#16 = .subn 1 2 ∧
    decodeWord 0b1000000100101110#16 = .shl 1 2 := by decide

theorem test_decode_family_8_no_ops :
    decodeWord 0b1000000100101000#16 = .nop88 1 2 ∧ decodeWord 0b1000000100101001#16 = .nop89 1 2 ∧
    decodeWord 0b1000000100101010#16 = .nop8A 1 2 ∧ decodeWord 0b1000000100101011#16 = .nop8B 1 2 ∧
    decodeWord 0b1000000100101100#16 = .nop8C 1 2 ∧ decodeWord 0b1000000100101101#16 = .nop8D 1 2 ∧
    decodeWord 0b1000000100101111#16 = .nop8F 1 2 := by decide

theorem test_decode_families_9_to_E :
    decodeWord 0b1001000100100000#16 = .sneReg 1 2 ∧ decodeWord 0b1001000100100001#16 = .unspec9 1 2 1 ∧
    decodeWord 0b1010001011110000#16 = .ldI 0x2F0 ∧ decodeWord 0b1011001100000000#16 = .jpV0 0x300 ∧
    decodeWord 0b1100000100001111#16 = .rnd 1 0x0F ∧ decodeWord 0b1101000000010101#16 = .drw 0 1 5 ∧
    decodeWord 0b1110001110011110#16 = .skp 3 ∧ decodeWord 0b1110001110100001#16 = .sknp 3 ∧
    decodeWord 0b1110000111111111#16 = .unspecE 1 0xFF := by decide

theorem test_decode_family_F :
    decodeWord 0b1111000100000111#16 = .ldVxDt 1 ∧ decodeWord 0b1111010100001010#16 = .ldVxK 5 ∧
    decodeWord 0b1111000000010101#16 = .ldDtVx 0 ∧ decodeWord 0b1111000000011000#16 = .ldStVx 0 ∧
    decodeWord 0b1111001000011110#16 = .addI 2 ∧ decodeWord 0b1111010000101001#16 = .ldF 4 ∧
    decodeWord 0b1111010100110011#16 = .ldB 5 ∧ decodeWord 0b1111000101010101#16 = .ldMemVx 1 ∧
    decodeWord 0b1111001001100101#16 = .ldVxMem 2 ∧ decodeWord 0b1111000100010111#16 = .nopF 1 0x17 := by decide

theorem test_decode_takes_the_high_byte_first :
    decode [0x12, 0x34, 0x56] = .ok (.jp 0x234, [0x56]) ∧ decode [0x12] = .error .truncated ∧
    decode [] = .error .truncated := by decide

theorem test_table_has_46_rows : opcodeTable.length = 46 := by decide

theorem test_table_word_F265 : decodeTableWord 16 0xF265 = some (.ldVxMem 2) := by decide

/-! ## Reset, placing a word, loading and running -/

theorem test_reset_memory_is_the_font_then_zero :
    State.reset.readByte 0 = 0xF0#8 ∧ State.reset.readByte 0x4F = 0x80#8 ∧ State.reset.readByte 0x50 = 0#8 ∧
    State.reset.readByte 0xFFF = 0#8 := by decide

/-- V-C2: from reset with nothing placed the word at 0x200 is 0x0000, and the next fetch reads 0xF090. -/
theorem test_reset_steps_into_the_font :
    after (step State.reset) (fun t => t.pc == 0#16 && t.sp == 0 && t.fetchWord == 0xF090#16) = true := by decide

theorem test_withFetchWord_runs_the_word :
    after (step (State.reset.withFetchWord 16 0x6A2F)) (fun t => t.reg 0xA == 0x2F#8 && t.pc == 0x202#16) = true := by
  decide

theorem test_core_run_two_steps_L1_4 :
    after (Sys2Proof.core.run 2 { State.reset with memory := [(0x200, 0x23), (0x301, 0xEE)] })
      (fun t => t.pc == 0x202#16 && t.sp == 0) = true := by decide

theorem test_load_program_V_H3 :
    after (loadProgram [0x12, 0x00] { State.reset with waiting := some 2, I := 5 })
      (fun t => t.memory == [(0x200, 0x12)] && t.waiting == none && t.I == 0#16 && t.pc == 0x200#16) = true := by decide

theorem test_a_program_too_large_is_recoverable :
    after (runEvents [.host (.loadProgram (List.replicate 3585 0)), .host .tickTimers] { State.reset with dt := 5 })
      (fun t => t.dt == 4#8) = true := by decide +kernel

theorem test_tick_V_K12 :
    (State.tickTimers { State.reset with dt := 5, st := 0 }).dt = 4#8 ∧
    (State.tickTimers { State.reset with dt := 5, st := 0 }).st = 0#8 := by decide

theorem test_fault_codes_D14 :
    (Fault.programTooLarge 3585).code = 1 ∧ (Fault.stackOverflow 0x200).code = 2 ∧
    (Fault.stackUnderflow 0x200).code = 3 ∧ (Fault.fatalTrap 0xFFF).code = 4 ∧
    (Fault.programTooLarge 3585).recorded = 3585 ∧ (Fault.fatalTrap 0xFFF).recorded = 0xFFF := by decide

/-! ## Control transfer and skips -/

theorem test_jp_V_C1 : after (step (start 0x1234 [])) (fun t => t.pc == 0x234#16) = true := by decide
theorem test_sys_V_C3 : after (step (start 0x00E1 [])) (fun t => t.pc == 0x0E1#16 && t.sp == 0) = true := by decide
theorem test_call_V_C5 :
    after (step { State.reset with pc := 0xFFE, memory := [(0xFFE, 0x23)] })
      (fun t => t.stack[0] == 0x1000#16 && t.sp == 1 && t.pc == 0x300#16) = true := by decide
theorem test_call_overflows_V_C6 :
    faultIs (step { start 0x2300 [] with sp := 16 }) (.stackOverflow 0x200) = true := by decide
theorem test_ret_underflows_V_C7 : faultIs (step (start 0x00EE [])) (.stackUnderflow 0x200) = true := by decide
theorem test_ret_V_C8 :
    after (step { start 0x00EE [] with sp := 2, stack := (State.reset.stack.set 0 0x202).set 1 0x404 })
      (fun t => t.pc == 0x404#16 && t.sp == 1 && t.stack[1] == 0x404#16) = true := by decide
theorem test_seImm_V_C9_C10 :
    after (step (start 0x3310 [(3, 0x10)])) (fun t => t.pc == 0x204#16) = true ∧
    after (step (start 0x3310 [(3, 0x11)])) (fun t => t.pc == 0x202#16) = true := by decide
theorem test_sneImm_V_C11_C12 :
    after (step (start 0x4310 [(3, 0x10)])) (fun t => t.pc == 0x202#16) = true ∧
    after (step (start 0x4310 [(3, 0x11)])) (fun t => t.pc == 0x204#16) = true := by decide
theorem test_seReg_V_C13 :
    after (step (start 0x5120 [(1, 7), (2, 7)])) (fun t => t.pc == 0x204#16) = true ∧
    after (step (start 0x5120 [(1, 7), (2, 8)])) (fun t => t.pc == 0x202#16) = true := by decide
theorem test_sneReg_V_C15_C16 :
    after (step (start 0x9120 [(1, 7), (2, 8)])) (fun t => t.pc == 0x204#16) = true ∧
    after (step (start 0x9110 [(1, 7)])) (fun t => t.pc == 0x202#16) = true := by decide
theorem test_jpV0_V_C18 :
    after (step (start 0xBFFF [(0, 0xFF)])) (fun t => t.pc == 0x10FE#16 && faultIs (step t) (.fatalTrap 0x10FE)) = true := by
  decide
theorem test_fetch_bound_V_C20_C21 :
    after (step { State.reset with pc := 0xFFE, memory := [(0xFFE, 0x60)] }) (fun t => t.pc == 0x1000#16) = true ∧
    faultIs (step { State.reset with pc := 0xFFF }) (.fatalTrap 0xFFF) = true := by decide
theorem test_odd_pc_V_C22 :
    after (step { State.reset with pc := 0x201, memory := [(0x201, 0x12), (0x202, 0x34)] })
      (fun t => t.pc == 0x234#16) = true := by decide

/-! ## Arithmetic and logic -/

theorem test_ldImm_V_A1 : after (step (start 0x6A2F [])) (fun t => t.reg 0xA == 0x2F#8) = true := by decide
theorem test_addImm_V_A2 :
    after (step (start 0x7102 [(1, 0xFF)])) (fun t => t.reg 1 == 1#8 && t.reg 0xF == 0#8) = true := by decide
theorem test_ldReg_V_A4 : after (step (start 0x8120 [(2, 0x55)])) (fun t => t.reg 1 == 0x55#8) = true := by decide
theorem test_orReg_V_A5 :
    after (step (start 0x8121 [(1, 0xF0), (2, 0x0F), (0xF, 9)])) (fun t => t.reg 1 == 0xFF#8 && t.reg 0xF == 9#8)
      = true := by decide
theorem test_andReg_V_A6 :
    after (step (start 0x8122 [(1, 0xF0), (2, 0x3C)])) (fun t => t.reg 1 == 0x30#8) = true := by decide
theorem test_xorReg_V_A7 :
    after (step (start 0x8123 [(1, 0xFF), (2, 0x0F)])) (fun t => t.reg 1 == 0xF0#8) = true := by decide
theorem test_addReg_L1_1 :
    after (step (start 0x8124 [(1, 0x80), (2, 0x80)])) (fun t => t.reg 1 == 0#8 && t.reg 0xF == 1#8) = true ∧
    after (step (start 0x8124 [(1, 0x7F), (2, 0x80)])) (fun t => t.reg 1 == 0xFF#8 && t.reg 0xF == 0#8) = true := by
  decide
theorem test_addReg_reads_old_VF_V_A10 :
    after (step (start 0x81F4 [(1, 0x10), (0xF, 0xF5)])) (fun t => t.reg 1 == 5#8 && t.reg 0xF == 1#8) = true := by decide
theorem test_sub_L1_2 :
    after (step (start 0x8125 [(1, 5), (2, 10)])) (fun t => t.reg 1 == 251#8 && t.reg 0xF == 0#8) = true ∧
    after (step (start 0x8125 [(1, 7), (2, 7)])) (fun t => t.reg 1 == 0#8 && t.reg 0xF == 1#8) = true := by decide
theorem test_subn_L1_2 :
    after (step (start 0x8127 [(1, 10), (2, 5)])) (fun t => t.reg 1 == 251#8 && t.reg 0xF == 0#8) = true ∧
    after (step (start 0x8127 [(1, 5), (2, 10)])) (fun t => t.reg 1 == 5#8 && t.reg 0xF == 1#8) = true := by decide
theorem test_shr_V_A17 :
    after (step (start 0x8126 [(1, 4), (2, 0x55)])) (fun t => t.reg 1 == 2#8 && t.reg 0xF == 0#8 && t.reg 2 == 0x55#8)
      = true := by decide
theorem test_shl_V_A18_A20 :
    after (step (start 0x810E [(1, 0x81)])) (fun t => t.reg 1 == 2#8 && t.reg 0xF == 1#8) = true ∧
    after (step (start 0x810E [(1, 0x7F), (0xF, 1)])) (fun t => t.reg 1 == 0xFE#8 && t.reg 0xF == 0#8) = true := by decide
theorem test_vfOrder_tableOrder_V_A25_to_A29 :
    after (step (start 0x8F14 [(0xF, 0x10), (1, 0xF0)])) (fun t => t.reg 0xF == 0#8) = true ∧
    after (step (start 0x8F15 [(0xF, 5), (1, 0xA)])) (fun t => t.reg 0xF == 0xFB#8) = true ∧
    after (step (start 0x8F06 [(0xF, 2)])) (fun t => t.reg 0xF == 1#8) = true ∧
    after (step (start 0x8F17 [(0xF, 5), (1, 0xA)])) (fun t => t.reg 0xF == 5#8) = true ∧
    after (step (start 0x8F0E [(0xF, 0x81)])) (fun t => t.reg 0xF == 2#8) = true := by decide
theorem test_vfOrder_flagLast_V_A25_to_A29 :
    after (step { start 0x8F14 [(0xF, 0x10), (1, 0xF0)] with config := flagLast }) (fun t => t.reg 0xF == 1#8) = true ∧
    after (step { start 0x8F15 [(0xF, 5), (1, 0xA)] with config := flagLast }) (fun t => t.reg 0xF == 0#8) = true ∧
    after (step { start 0x8F06 [(0xF, 2)] with config := flagLast }) (fun t => t.reg 0xF == 0#8) = true ∧
    after (step { start 0x8F17 [(0xF, 5), (1, 0xA)] with config := flagLast }) (fun t => t.reg 0xF == 1#8) = true ∧
    after (step { start 0x8F0E [(0xF, 0x81)] with config := flagLast }) (fun t => t.reg 0xF == 1#8) = true := by decide
theorem test_rnd_masks_to_nothing_V_A22 :
    after (step (start 0xC100 [(1, 0x55)])) (fun t => t.pc == 0x202#16 && t.freeCount == 1) = true := by decide
/-- V-A21: the draw is a hypothesis. -/
theorem test_rnd_V_A21 (h : Config.drawByte 0 = 0x3A#8) :
    ∃ t, exec (.rnd 1 0x0F) State.reset = .next t ∧ t.reg 1 = 0x0A#8 := by
  refine ⟨_, rfl, ?_⟩
  change Config.drawByte 0 &&& 0x0F#8 = 0x0A#8
  rw [h]; decide

/-! ## Index register and memory transfers -/

theorem test_ldI_V_M1 : after (step (start 0xA2F0 [])) (fun t => t.I == 0x2F0#16) = true := by decide
theorem test_addI_V_M3_M4 :
    after (step { start 0xF01E [(0, 1)] with I := 0xFFF }) (fun t => t.I == 0x1000#16) = true ∧
    after (step { start 0xF01E [(0, 1)] with I := 0xFFFF }) (fun t => t.I == 0#16 && t.reg 0xF == 0#8) = true := by decide
theorem test_ldF_V_M5_M6 :
    after (step (start 0xF429 [(4, 0x0A)])) (fun t => t.I == 0x032#16) = true ∧
    after (step (start 0xF029 [(0, 0xFF)])) (fun t => t.I == 0x4FB#16) = true := by decide
theorem test_ldB_L1_6 :
    after (step { start 0xF533 [(5, 157)] with I := 0x300 })
      (fun t => t.readByte 0x300 == 1#8 && t.readByte 0x301 == 5#8 && t.readByte 0x302 == 7#8 && t.I == 0x300#16) = true := by
  decide
theorem test_ldB_wraps_V_M7 :
    after (step { start 0xF033 [] with I := 0xFFE })
      (fun t => t.readByte 0 == 0#8 && t.readByte 1 == 0x90#8 && t.readByte 0xFFF == 0#8) = true := by decide
theorem test_ldMemVx_V_M11 :
    after (step { start 0xF155 [(0, 0xAA), (1, 0xBB)] with I := 0xFFF })
      (fun t => t.readByte 0xFFF == 0xAA#8 && t.readByte 0 == 0xBB#8 && t.readByte 1 == 0x90#8 && t.I == 0xFFF#16)
      = true := by decide
/-- V-M14: the store is seen by the next fetch. -/
theorem test_ldMemVx_into_the_next_instruction_V_M14 :
    after (step { start 0xF155 [(0, 0x12), (1, 0x08)] with I := 0x202 })
      (fun t => after (step t) (fun u => u.pc == 0x208#16)) = true := by decide
theorem test_ldVxMem_V_M12 :
    after (step (start 0xF265 [(3, 0x77)]))
      (fun t => t.reg 0 == 0xF0#8 && t.reg 1 == 0x90#8 && t.reg 2 == 0x90#8 && t.reg 3 == 0x77#8) = true := by decide
theorem test_ldVxMem_V_M13 :
    after (step { start 0xFF65 [] with I := 5 })
      (fun t => t.regs == #v[0x20, 0x60, 0x20, 0x20, 0x70, 0xF0, 0x10, 0xF0, 0x80, 0xF0, 0xF0, 0x10, 0xF0, 0x10, 0xF0, 0x90])
      = true := by decide

/-! ## Display -/

theorem test_cls_V_D1 :
    after (step { start 0x00E0 [] with display := 5#pixelCount, drawPending := false })
      (fun t => t.display == 0#pixelCount && t.drawPending) = true := by decide +kernel
/-- V-D2: a sprite at column 62, row 30 is clipped at both edges. -/
theorem test_drw_clips_V_D2 :
    after (exec (.drw 0 1 5) { start 0xD015 [(0, 62), (1, 30)] with
        I := 0x300, memory := [(0x300, 0xFF), (0x301, 0xFF), (0x302, 0xFF), (0x303, 0xFF), (0x304, 0xFF)] })
      (fun t => t.display ==
          (1#pixelCount <<< 1982 ||| 1#pixelCount <<< 1983 ||| 1#pixelCount <<< 2046 ||| 1#pixelCount <<< 2047) &&
        t.reg 0xF == 0#8) = true := by decide +kernel
/-- V-D6: the rows wrap in memory. -/
theorem test_drw_rows_wrap_V_D6 :
    after (exec (.drw 0 1 2) { State.reset with I := 0xFFF, memory := [(0xFFF, 0x80)] })
      (fun t => t.display == (1#pixelCount ||| (0xF#pixelCount <<< 64)) && t.reg 0xF == 0#8) = true := by decide +kernel
/-- V-D5: a set pixel that is cleared is a collision. -/
theorem test_drw_collides_V_D5 :
    after (exec (.drw 0 1 1) { State.reset with I := 0x300, memory := [(0x300, 0xC0)], display := 2#pixelCount })
      (fun t => t.display == 1#pixelCount && t.reg 0xF == 1#8) = true := by decide +kernel
/-- V-D3: the start position wraps. -/
theorem test_drw_start_wraps_V_D3 :
    after (exec (.drw 0 1 1) { start 0 [(0, 67), (1, 33)] with I := 0x300, memory := [(0x300, 0x80)] })
      (fun t => t.display == 1#pixelCount <<< 67 && t.reg 0xF == 0#8) = true := by decide +kernel
theorem test_drw_of_no_rows_V_D4 :
    after (step { start 0xD000 [(0xF, 1)] with drawPending := false })
      (fun t => t.display == 0#pixelCount && t.reg 0xF == 0#8 && t.drawPending && t.pc == 0x202#16) = true := by decide +kernel

/-! ## Keys and timers -/

theorem test_skp_V_K1_K2 :
    after (step { start 0xE39E [(3, 3)] with keypad := keys [3] }) (fun t => t.pc == 0x204#16) = true ∧
    after (step { start 0xE39E [(3, 3)] with keypad := keys [4] }) (fun t => t.pc == 0x202#16) = true := by decide
theorem test_sknp_V_K3 : after (step (start 0xE3A1 [(3, 3)])) (fun t => t.pc == 0x204#16) = true := by decide
theorem test_key_index_V_K4_K5_K6 :
    refusalIs (step { start 0xE19E [(1, 0x10)] with config := specDefault }) (.keyIndexOutOfRange 0x200) = true ∧
    after (step { start 0xE19E [(1, 0x10)] with config := lowNibble, keypad := keys [0] })
      (fun t => t.pc == 0x204#16) = true ∧
    after (step { start 0xE1A1 [(1, 0x10)] with config := notPressed }) (fun t => t.pc == 0x204#16) = true := by decide
theorem test_ldVxDt_V_K7 : after (step { start 0xF107 [] with dt := 0x2A }) (fun t => t.reg 1 == 0x2A#8) = true := by decide
theorem test_ldVxK_V_K8 :
    after (step { start 0xF50A [(5, 9)] with keypad := keys [3] })
      (fun t => t.waiting == some 5 && t.pc == 0x200#16 && t.reg 5 == 9#8) = true := by decide
theorem test_keyWait_V_K9 :
    after (step { start 0xF70A [] with waiting := some 7, keypad := keys [2, 5] })
      (fun t => t.reg 7 == 2#8 && t.waiting == none && t.pc == 0x202#16) = true := by decide
theorem test_ldDtVx_V_K10 : after (step (start 0xF015 [(0, 60)])) (fun t => t.dt == 60#8 && t.st == 0#8) = true := by decide
theorem test_ldStVx_V_K11 : after (step (start 0xF018 [(0, 0x10)])) (fun t => t.st == 0x10#8 && t.dt == 0#8) = true := by
  decide

/-! ## No-op and unspecified words -/

theorem test_no_ops_V_E4_E5 :
    after (step (start 0xF117 [(1, 3)])) (fun t => t == { start 0xF117 [(1, 3)] with pc := 0x202 }) = true ∧
    after (step (start 0x812F [(1, 3)])) (fun t => t == { start 0x812F [(1, 3)] with pc := 0x202 }) = true := by decide +kernel
theorem test_unspecified_words_V_E1_E2_E3 :
    refusalIs (step { start 0x5121 [] with config := specDefault }) (.unspecifiedEncoding 0x200) = true ∧
    refusalIs (step { start 0x9121 [] with config := specDefault }) (.unspecifiedEncoding 0x200) = true ∧
    refusalIs (step { start 0xE1FF [] with config := specDefault }) (.unspecifiedEncoding 0x200) = true ∧
    after (step (start 0x5121 [])) (fun t => t == { start 0x5121 [] with pc := 0x202 }) = true := by decide +kernel

/-! ## Witnesses: states and operands that meet the hypotheses of the obligations, each named after its obligation -/

theorem witness_DecodeOfEncodeIsTheInstruction :
    (Instr.drw 0xF 0xF 0xF).wellFormed = true ∧ (Instr.sys 0xFFF).wellFormed = true := by decide

theorem witness_StepRunsTheDecodedInstruction :
    ∃ s : State, s.waiting = none ∧ s.pc.toNat = 0xFFE ∧
      decode [s.readByte s.pc.toNat, s.readByte (s.pc.toNat + 1)] = .ok (.ldImm 0 0x31, []) ∧
      (Instr.ldImm 0 0x31).wellFormed = true ∧ s.readByte s.pc.toNat = highByte (encode (.ldImm 0 0x31)) ∧
      s.readByte (s.pc.toNat + 1) = lowByte (encode (.ldImm 0 0x31)) :=
  ⟨{ State.reset with pc := 0xFFE, memory := [(0xFFE, 0x60), (0xFFF, 0x31)] }, by decide⟩

theorem witness_FetchReadsTheWordOrTraps :
    ∃ s u : State, s.waiting = none ∧ s.pc.toNat = 0xFFE ∧ u.waiting = none ∧ u.pc.toNat = 0xFFF :=
  ⟨{ State.reset with pc := 0xFFE }, { State.reset with pc := 0xFFF }, by decide⟩

theorem witness_KeyWaitTakesTheLeastPressedKey :
    ∃ s u : State, s.waiting = some 0xF ∧ (∀ k : Fin 16, s.keypad[k] = false) ∧ u.waiting = some 0xF ∧
      u.keypad[(15 : Fin 16)] = true ∧ ∀ j : Fin 16, j < 15 → u.keypad[j] = false :=
  ⟨{ State.reset with waiting := some 0xF }, { State.reset with waiting := some 0xF, keypad := keys [15] }, by decide⟩

theorem witness_StepFaultsExactlyInThreeCases :
    ∃ s u v : State, step s = .fault (.fatalTrap 0xFFF) ∧ step u = .fault (.stackUnderflow 0xFFE) ∧
      step v = .fault (.stackOverflow 0xFFE) :=
  ⟨{ State.reset with pc := 0xFFF }, { State.reset with pc := 0xFFE, memory := [(0xFFF, 0xEE)] },
    { State.reset with pc := 0xFFE, sp := 16, memory := [(0xFFE, 0x23)] },
    faultIs_fault (by decide), faultIs_fault (by decide), faultIs_fault (by decide)⟩

theorem witness_StepRefusesExactlyInTwoCases :
    ∃ s u v : State, step s = .refused (.unspecifiedEncoding 0x200) ∧ step u = .refused (.keyIndexOutOfRange 0x200) ∧
      step v = .refused (.keyIndexOutOfRange 0x200) :=
  ⟨{ start 0x9FF1 [] with config := specDefault }, { start 0xEF9E [(0xF, 16)] with config := specDefault },
    { start 0xE0A1 [(0, 255)] with config := specDefault },
    refusalIs_refused (by decide), refusalIs_refused (by decide), refusalIs_refused (by decide)⟩

theorem witness_ProgramCounterMovesByTwoUnlessNamed :
    ∀ w ∈ [0x0300#16, 0x1234#16, 0x2300#16, 0xB300#16, 0xF50A#16, 0x3000#16, 0x4001#16, 0x5120#16, 0xE0A1#16],
      ∃ t, step (start w []) = .next t ∧ (t.pc != (start w []).pc + 2#16) = true :=
  all_after (p := fun w t => t.pc != (start w []).pc + 2#16) (by decide +kernel)

theorem witness_StepKeepsTheInvariant :
    ∃ s u t v : State, Inv s ∧ step s = .next t ∧ (t.memory != s.memory) = true ∧
      Inv u ∧ u.waiting = some 5 ∧ step u = .next v ∧ v.waiting.isNone = true := by
  have hs : Inv { start 0xF533 [(5, 157)] with I := 0x300 } :=
    ⟨by decide, by decide, by decide, fun r hr => by cases hr⟩
  have hu : Inv { start 0xF50A [] with waiting := some 5, keypad := keys [15] } :=
    ⟨by decide, by decide, by decide, fun r hr => by cases hr; decide⟩
  obtain ⟨t, ht, ht'⟩ := after_next (r := step { start 0xF533 [(5, 157)] with I := 0x300 })
    (p := fun t => t.memory != (start 0xF533 [(5, 157)]).memory) (by decide)
  obtain ⟨v, hv, hv'⟩ := after_next (r := step { start 0xF50A [] with waiting := some 5, keypad := keys [15] })
    (p := fun t => t.waiting.isNone) (by decide)
  exact ⟨_, _, t, v, hs, ht, ht', hu, rfl, hv, hv'⟩

theorem witness_HostOperationsAndRunsKeepTheInvariant :
    Inv State.reset ∧ (∃ t, hostOp (.loadProgram [0x12, 0x00]) State.reset = .next t ∧ (t.memory == [(0x200, 0x12)]) = true) ∧
      ∃ t, runEvents [.host (.loadProgram [0xF0, 0x0A]), .step, .host (.setKeys (keys [0])), .step] State.reset = .next t ∧
        (t.pc == 0x202#16) = true :=
  ⟨⟨by decide, by decide, by decide, fun r hr => by cases hr⟩,
    after_next (p := fun t => t.memory == [(0x200, 0x12)]) (by decide), after_next (p := fun t => t.pc == 0x202#16) (by decide)⟩

theorem witness_DataAddressIsTheMaskedSum :
    ∃ (s : State) (j k : Nat), j < 16 ∧ k < 16 ∧ s.ea j = s.ea k ∧ s.ea k = 0xE :=
  ⟨{ State.reset with I := 0xFFFF }, 15, 15, by decide⟩

theorem witness_EqualReadingMemoriesAreEqual :
    ∃ (c : Config) (m : Memory), Memory.wf c m ∧ m ≠ [] ∧ ∀ a, a < 4096 → Memory.read c m a = Memory.read c m a :=
  ⟨defaultConfig, [(0, 0), (0xFFF, 1)], by decide, by decide, fun _ _ => rfl⟩

theorem witness_OnlyBcdAndStoreWriteMemory :
    ∀ w ∈ [0xF133#16, 0xF155#16], ∃ t, step { start w [(1, 9)] with I := 0x300 } = .next t ∧
      (t.memory != (start w [(1, 9)]).memory) = true :=
  all_after (p := fun w t => t.memory != (start w [(1, 9)]).memory) (by decide +kernel)

theorem witness_ReturnPopsOrUnderflows :
    ∃ s u v : State, s.sp.val = 0 ∧ u.sp.val = (0 : Fin 16).val + 1 ∧ v.sp.val = (15 : Fin 16).val + 1 :=
  ⟨{ State.reset with sp := 0 }, { State.reset with sp := 1 }, { State.reset with sp := 16 }, by decide⟩

theorem witness_CallPushesOrOverflows :
    ∃ s u v : State, s.sp.val = 16 ∧ u.sp.val = (0 : Fin 16).val ∧ v.sp.val = (15 : Fin 16).val :=
  ⟨{ State.reset with sp := 16 }, { State.reset with sp := 0 }, { State.reset with sp := 15 }, by decide⟩

theorem witness_ReturnUndoesCall :
    ∃ s t u : State, exec (.call 0x300) s = .next t ∧ u.sp = t.sp ∧ u.stack = t.stack ∧ u.I ≠ t.I := by
  obtain ⟨t, ht, hi⟩ := after_next (r := exec (.call 0x300) { State.reset with sp := 15 })
    (p := fun t => t.I == 0#16) (by decide)
  exact ⟨_, t, { t with I := 1 }, ht, rfl, rfl, by rw [eq_of_beq hi]; show (1#16) ≠ 0#16; decide⟩

theorem witness_OnlyCallAndReturnTouchTheStack :
    (∃ t, step (start 0x2300 []) = .next t ∧ (t.sp != (start 0x2300 []).sp && t.stack != (start 0x2300 []).stack) = true) ∧
    (∃ t, step { start 0x00EE [] with sp := 16 } = .next t ∧ (t.sp != 16) = true) :=
  ⟨after_next (p := fun t => t.sp != (start 0x2300 []).sp && t.stack != (start 0x2300 []).stack) (by decide),
    after_next (p := fun t => t.sp != 16) (by decide)⟩

theorem witness_DeadStackEntriesAreNotRead :
    ∃ s u : State, s.stack ≠ u.stack ∧ ∀ c : Component, (∀ k, c = .stackEntry k → k.val < s.sp.val) → c.same s u := by
  refine ⟨State.reset, { State.reset with stack := Vector.replicate 16 7 }, by decide, ?_⟩
  intro c h
  cases c with
  | stackEntry k => exact absurd (h k rfl) (Nat.not_lt_zero _)
  | _ => rfl

theorem witness_FlagAndResult :
    ∃ s u : State, s.config.vfOrder = .tableOrder ∧ u.config.vfOrder = .flagLast :=
  ⟨State.reset, { State.reset with config := flagLast }, by decide⟩

theorem witness_VfOrderDecidesWhatVfKeeps :
    ∃ (y : Reg) (s : State), (if 255 < (s.reg .vf).toNat + (s.reg y).toNat then 1#8 else 0#8) = 1#8 ∧
      s.reg .vf + s.reg y = 0#8 :=
  ⟨1, start 0x8F14 [(0xF, 0x10), (1, 0xF0)], by decide⟩

theorem witness_RandomIsAMaskedFreeByte : (0x0F#8).getLsbD 4 = false ∧ (0x7F#8).getLsbD 7 = false := by decide

theorem witness_OnlyNamedInstructionsWriteVf_words :
    ∀ w ∈ [0x8004#16, 0x8005#16, 0x8006#16, 0x8007#16, 0x800E#16, 0xD000#16, 0x6F01#16, 0x7F01#16,
        0x8F10#16, 0x8F11#16, 0x8F12#16, 0x8F13#16, 0xFF07#16, 0xFF65#16],
      ∃ t, step { start w [(0xF, 0x5C), (1, 0x7F), (0, 0x80)] with dt := 3, I := 0x300 } = .next t ∧
        (w == 0x8F12#16 || t.reg .vf != 0x5C#8) = true :=
  all_after (p := fun w t => w == 0x8F12#16 || t.reg .vf != 0x5C#8) (by decide +kernel)

theorem witness_OnlyNamedInstructionsWriteVf_and :
    ∃ t, step (start 0x8F12 [(0xF, 0x5C)]) = .next t ∧ (t.reg .vf != 0x5C#8) = true :=
  after_next (p := fun t => t.reg .vf != 0x5C#8) (by decide)

theorem witness_OnlyNamedInstructionsWriteVf_wait :
    ∃ t, step { start 0xFF0A [] with waiting := some .vf, keypad := keys [15] } = .next t ∧ (t.reg .vf != 0#8) = true :=
  after_next (p := fun t => t.reg .vf != 0#8) (by decide)

/-- Whatever byte is drawn, CF00 clears a VF that is not 0. -/
theorem witness_OnlyNamedInstructionsWriteVf_rnd :
    ∃ t, step (start 0xCF00 [(0xF, 1)]) = .next t ∧ t.reg .vf ≠ 1#8 := by
  refine ⟨_, rfl, ?_⟩
  change Config.drawByte 0 &&& 0#8 ≠ 1#8
  simp

theorem witness_StoreAndLoad : ∃ k x : Reg, k.toNat ≤ x.toNat ∧ k.toNat = 15 := ⟨0xF, 0xF, by decide⟩

theorem witness_LoadUndoesStore :
    ∃ s t u : State, exec (.ldMemVx 0xF) s = .next t ∧ (∀ a, u.readByte a = t.readByte a) ∧ u.I = t.I ∧
      u.reg 0 ≠ s.reg 0 := by
  obtain ⟨t, ht, -⟩ := after_next (r := exec (.ldMemVx 0xF) { start 0 [(0, 1)] with I := 0xFF8 })
    (p := fun _ => true) (by decide)
  exact ⟨_, t, { t with regs := Vector.replicate 16 0 }, ht, fun _ => rfl, rfl, show (0#8) ≠ 1#8 by decide⟩

theorem witness_OnlyThreeInstructionsWriteI :
    ∀ w ∈ [0xA2F0#16, 0xF11E#16, 0xF129#16], ∃ t, step (start w [(1, 9)]) = .next t ∧ (t.I != 0#16) = true :=
  all_after (p := fun _ t => t.I != 0#16) (by decide +kernel)

/-- A covered pixel at the last column of the last row, set in one display and clear in the other, and a sprite that
covers nothing. -/
theorem witness_DrawTogglesTheCoveredPixels :
    ∃ s u : State, s.spriteCovers 0 1 1 2047 ∧ s.pixel 2047 = true ∧ u.spriteCovers 0 1 1 2047 ∧ u.pixel 2047 = false ∧
      (∀ p, s.spriteCovers 0 1 0 p → s.pixel p = false) := by
  refine ⟨{ start 0 [(0, 63), (1, 31)] with I := 0x300, memory := [(0x300, 0x80)], display := 1#pixelCount <<< 2047 },
    { start 0 [(0, 63), (1, 31)] with I := 0x300, memory := [(0x300, 0x80)] },
    ⟨0, 0, by decide, by decide, by decide, by decide, by decide, by decide⟩, by decide +kernel,
    ⟨0, 0, by decide, by decide, by decide, by decide, by decide, by decide⟩, by decide +kernel, ?_⟩
  rintro p ⟨r, b, hr, -⟩
  exact absurd hr (Nat.not_lt_zero _)

theorem witness_DrawingTwiceRestoresTheDisplay :
    ∃ s t u : State, (0 : Reg) ≠ .vf ∧ (1 : Reg) ≠ .vf ∧ exec (.drw 0 1 1) s = .next t ∧ exec (.drw 0 1 1) t = .next u ∧
      (∀ p, s.pixel p = false) ∧ u.reg .vf = 1#8 := by
  let s : State := { State.reset with I := 0x300, memory := [(0x300, 0xFF)] }
  have h : after (exec (.drw 0 1 1) s) (fun t => after (exec (.drw 0 1 1) t) fun u => u.reg .vf == 1#8) = true := by
    decide +kernel
  obtain ⟨t, ht, h⟩ := after_next h
  obtain ⟨u, hu, h⟩ := after_next h
  exact ⟨s, t, u, by decide, by decide, ht, hu, fun p => BitVec.getLsbD_zero, eq_of_beq h⟩

theorem witness_OnlyClearAndDrawTouchTheDisplay :
    ∀ w ∈ [0x00E0#16, 0xD005#16], ∃ t, step { start w [] with display := 1#pixelCount, drawPending := false } = .next t ∧
      (t.display != 1#pixelCount && t.drawPending) = true :=
  all_after (p := fun _ t => t.display != 1#pixelCount && t.drawPending) (by decide +kernel)

theorem witness_KeySkipsReadTheNamedKey :
    ∃ s u v : State, (s.reg 1).toNat = (15 : Fin 16).val ∧
      (15 < (u.reg 1).toNat ∧ u.config.keyIndexPolicy = .lowNibble ∧ (u.reg 1).toNat % 16 = (0 : Fin 16).val) ∧
      (15 < (v.reg 1).toNat ∧ v.config.keyIndexPolicy = .lowNibble ∧ (v.reg 1).toNat % 16 = (15 : Fin 16).val) :=
  ⟨start 0 [(1, 15)], { start 0 [(1, 16)] with config := lowNibble }, { start 0 [(1, 255)] with config := lowNibble },
    by decide⟩

theorem witness_KeySkipsPastTheKeypad :
    ∃ s u v : State, (15 < (s.reg 1).toNat ∧ s.config.keyIndexPolicy = .notPressed) ∧
      (15 < (u.reg 1).toNat ∧ u.config.keyIndexPolicy = .refuse) ∧
      (15 < (v.reg 1).toNat ∧ v.config.keyIndexPolicy = .anyValue) :=
  ⟨{ start 0 [(1, 16)] with config := notPressed }, { start 0 [(1, 16)] with config := specDefault }, start 0 [(1, 16)],
    by decide⟩

theorem witness_KeyWaitIsEnteredResolvedAndCancelled :
    (∃ u v : State, u.waiting = some 0 ∧ (∀ k : Fin 16, u.keypad[k] = false) ∧ v.waiting = some 0xF ∧
      v.keypad[(0 : Fin 16)] = true ∧ ∀ j : Fin 16, j < 0 → v.keypad[j] = false) ∧
    ∃ v, hostOp (.loadProgram []) { State.reset with waiting := some 0 } = .next v ∧ true = true :=
  ⟨⟨{ State.reset with waiting := some 0 }, { State.reset with waiting := some 0xF, keypad := keys [0] }, by decide⟩,
    after_next (p := fun _ => true) (by decide)⟩

theorem witness_StepNeverTicksTheTimers :
    (∃ t, step { start 0xF015 [] with dt := 3 } = .next t ∧ (t.dt != 3#8) = true) ∧
    (∃ t, step { start 0xF018 [] with st := 3 } = .next t ∧ (t.st != 3#8) = true) :=
  ⟨after_next (p := fun t => t.dt != 3#8) (by decide), after_next (p := fun t => t.st != 3#8) (by decide)⟩

theorem witness_KeypadIsOnlyReadAndWaitOnlyByKeyWait :
    (∃ t, step (start 0xF50A []) = .next t ∧ (t.waiting != none) = true) ∧
    (∃ t, step { start 0xF50A [] with waiting := some 5, keypad := keys [0] } = .next t ∧ (t.waiting != some 5) = true) :=
  ⟨after_next (p := fun t => t.waiting != none) (by decide), after_next (p := fun t => t.waiting != some 5) (by decide)⟩

theorem witness_DrawFlagAndSoundTimerAreNotRead :
    ∃ s u : State, s.st ≠ u.st ∧ s.drawPending ≠ u.drawPending ∧
      ∀ c : Component, c ≠ .drawFlag → c ≠ .st → c.same s u := by
  refine ⟨State.reset, { State.reset with drawPending := false, st := 9 }, by decide, by decide, ?_⟩
  intro c h1 h2
  cases c with
  | drawFlag => exact absurd rfl h1
  | st => exact absurd rfl h2
  | _ => rfl

theorem witness_NoOpWordsOnlyAdvance :
    (0x17#8 ∉ [0x07#8, 0x0A#8, 0x15#8, 0x18#8, 0x1E#8, 0x29#8, 0x33#8, 0x55#8, 0x65#8]) ∧
    Instr.nopF 1 0x17 ∈ [.nop88 1 2, .nop89 1 2, .nop8A 1 2, .nop8B 1 2, .nop8C 1 2, .nop8D 1 2, .nop8F 1 2, .nopF 1 0x17] := by
  decide

theorem witness_UnspecifiedWordsFollowTheParameter :
    (1#4 ≠ 0#4 ∧ 0xFF#8 ≠ 0x9E#8 ∧ 0xFF#8 ≠ 0xA1#8 ∧
      Instr.unspecE 1 0xFF ∈ [.unspec5 1 2 1, .unspec9 1 2 1, .unspecE 1 0xFF]) ∧
    ∃ s u : State, s.config.unspecEncoding = .nop ∧ u.config.unspecEncoding = .refuse :=
  ⟨by decide, start 0x5121 [], { start 0x5121 [] with config := specDefault }, by decide⟩

theorem witness_HostResetGivesTheResetValues : 80 ≤ 80 ∧ 80 < 4096 ∧ 80 ≤ 4095 ∧ 4095 < 4096 := by decide

theorem witness_LoadProgramResetsAndCopies :
    ∃ a b : List Byte, 3584 < a.length ∧ a.length = 3585 ∧ b.length ≤ 3584 ∧ 3583 < b.length :=
  ⟨List.replicate 3585 0, List.replicate 3584 0, by rw [List.length_replicate]; decide,
    List.length_replicate, List.length_replicate.le, by rw [List.length_replicate]; decide⟩

theorem witness_HostOperationsKeepTheModelsOwnFields :
    ∃ t, hostOp .reset { State.reset with config := flagLast, freeCount := 3 } = .next t ∧
      (t.config == flagLast && t.freeCount == 3) = true :=
  after_next (p := fun t => t.config == flagLast && t.freeCount == 3) (by decide)

theorem witness_FailedLoadLeavesTheRunAsItWas : ∃ bytes : List Byte, 3584 < bytes.length ∧ bytes.length = 3585 :=
  ⟨List.replicate 3585 0, by rw [List.length_replicate]; decide, List.length_replicate⟩

/-- A run that reaches a state whose step faults, and one that reaches a state whose step is refused. -/
theorem witness_RunsKeepTheFirstStop :
    (∃ t, runEvents [.step] (start 0x1FFF []) = .next t ∧ faultIs (step t) (.fatalTrap 0xFFF) = true) ∧
    (∃ t, runEvents [.host .tickTimers] { start 0x5121 [] with config := specDefault } = .next t ∧
      refusalIs (step t) (.unspecifiedEncoding 0x200) = true) :=
  ⟨after_next (p := fun t => faultIs (step t) (.fatalTrap 0xFFF)) (by decide),
    after_next (p := fun t => refusalIs (step t) (.unspecifiedEncoding 0x200)) (by decide)⟩

theorem witness_TickTakesOneFromEachRunningTimer :
    ∃ s u : State, (0 < s.dt.toNat ∧ s.st.toNat = 0) ∧ (u.dt.toNat = 0 ∧ 0 < u.st.toNat ∧ u.st.toNat = 255) :=
  ⟨{ State.reset with dt := 1 }, { State.reset with st := 255 }, by decide⟩

theorem witness_IdleStatesStayAsTheyAre : ∃ s u : State, Idle s ∧ Idle u ∧ u.pc.toNat = 0xFFE :=
  ⟨start 0x1200 [], { State.reset with pc := 0xFFE, memory := [(0xFFE, 0x0F), (0xFFF, 0xFE)] },
    ⟨rfl, by decide, 0x200, by decide, .inl (by decide)⟩,
    ⟨rfl, by decide, 0xFFE, by decide, .inr (by decide)⟩, by decide⟩

end Sys2Proof.Tests
end

section
/-! PROOFS. What a host operation leaves of the model's own two fields, `config` and `freeCount`
(spec/60_exceptions.md R190, log entries 1 and 6). -/

namespace Sys2Proof.Machine

/-! ## Program load: the one host operation that can fail (R212) -/

/-- A load that answers a next state had a program that fits. -/
theorem loadProgram_eq_next {bytes : List Byte} {s t : State} (h : loadProgram bytes s = .next t) :
    bytes.length ≤ 3584 ∧ t = s.hostReset.setMemory
      (Memory.writeAll s.config (fun k => programBase + k) 0 bytes s.hostReset.memory) := by
  have hfits : bytes.length ≤ 3584 := by
    by_contra hlong
    simp [loadProgram_too_large s (Nat.lt_of_not_le hlong)] at h
  rw [loadProgram_fits s hfits] at h
  exact ⟨hfits, (Host.Outcome.next.inj h).symm⟩

/-! ## The model's own fields under each host operation -/

@[simp] theorem State.hostReset_config (s : State) : s.hostReset.config = s.config := rfl
@[simp] theorem State.hostReset_freeCount (s : State) : s.hostReset.freeCount = s.freeCount := rfl
@[simp] theorem State.tickTimers_config (s : State) : s.tickTimers.config = s.config := rfl
@[simp] theorem State.tickTimers_freeCount (s : State) : s.tickTimers.freeCount = s.freeCount := rfl
@[simp] theorem State.setKeys_config (s : State) (k : Vector Bool 16) : (s.setKeys k).config = s.config := rfl
@[simp] theorem State.setKeys_freeCount (s : State) (k : Vector Bool 16) : (s.setKeys k).freeCount = s.freeCount := rfl
@[simp] theorem State.clearDrawPending_config (s : State) : s.clearDrawPending.config = s.config := rfl
@[simp] theorem State.clearDrawPending_freeCount (s : State) : s.clearDrawPending.freeCount = s.freeCount := rfl

/-- The reset machine has the default configuration and has taken no free value, which are the two fields a reset
keeps. -/
theorem State.hostReset_reset : State.reset.hostReset = State.reset := rfl

theorem hostOp_keeps_config_and_freeCount {o : HostOp} {s t : State} (h : hostOp o s = .next t) :
    t.config = s.config ∧ t.freeCount = s.freeCount := by
  cases o with
  | loadProgram bytes =>
    obtain ⟨-, rfl⟩ := loadProgram_eq_next h
    simp
  | reset | tickTimers | setKeys | clearDrawPending | readDisplay | readDrawPending | readSoundTimer =>
    obtain rfl := Host.Outcome.next.inj h
    simp

/-- Settles O58, by cases on the host operation: only a load can fail, and one that succeeds writes memory over the
reset state. -/
theorem hostOperationsKeepTheModelsOwnFields : Obligations.HostOperationsKeepTheModelsOwnFields :=
  ⟨fun _ _ _ => hostOp_keeps_config_and_freeCount,
    fun s => ⟨s.hostReset_config, s.hostReset_freeCount⟩,
    State.hostReset_reset⟩

end Sys2Proof.Machine
end

section
/-! PROOFS. Canonical memories are determined by what they read (spec/20_memory.md R50, R31; log entry 14). -/

namespace Sys2Proof.Machine

theorem Memory.mem_of_lookup {m : Memory} {a : Nat} {v : Byte} (h : Memory.lookup m a = some v) : (a, v) ∈ m := by
  induction m with
  | nil => simp [Memory.lookup] at h
  | cons e m ih =>
    obtain ⟨b, w⟩ := e
    rw [Memory.lookup] at h
    split at h
    · next hab => simp_all
    · exact List.mem_cons_of_mem _ (ih h)

/-- In a list by rising address, every entry is the one that its address finds. -/
theorem Memory.lookup_of_mem {m : Memory} (hs : m.Pairwise (fun e f => e.1 < f.1)) {e : Host.Cell} (he : e ∈ m) :
    Memory.lookup m e.1 = some e.2 := by
  induction m with
  | nil => simp at he
  | cons f m ih =>
    obtain ⟨hf, hm⟩ := List.pairwise_cons.mp hs
    rw [Memory.lookup]
    rcases List.mem_cons.mp he with rfl | he
    · exact if_pos rfl
    · rw [if_neg (hf e he).ne', ih hm he]

/-- The entries of a canonical memory are exactly the bytes inside the memory that read otherwise than after reset. -/
theorem Memory.mem_iff_read {c : Config} {m : Memory} (h : Memory.wf c m) (e : Host.Cell) :
    e ∈ m ↔ e.1 < 0x1000 ∧ Memory.read c m e.1 = e.2 ∧ e.2 ≠ resetByte c e.1 := by
  constructor
  · intro he
    obtain ⟨hlt, hne⟩ := h.2 e he
    exact ⟨hlt, by simp [Memory.read, Memory.lookup_of_mem h.1 he], hne⟩
  · rintro ⟨-, hr, hne⟩
    cases hl : Memory.lookup m e.1 with
    | none => exact absurd (by simpa [Memory.read, hl] using hr.symm) hne
    | some v =>
      have hv : v = e.2 := by simpa [Memory.read, hl] using hr
      exact Memory.mem_of_lookup (hv ▸ hl)

/-- Two canonical memories with the same entries list them in the same order. -/
theorem Memory.eq_of_mem_iff {c : Config} {m m' : Memory} (h : Memory.wf c m) (h' : Memory.wf c m')
    (hmem : ∀ e, e ∈ m ↔ e ∈ m') : m = m' :=
  have : Std.Irrefl (fun e f : Host.Cell => e.1 < f.1) := ⟨fun e => Nat.lt_irrefl e.1⟩
  have : Std.Antisymm (fun e f : Host.Cell => e.1 < f.1) := ⟨fun _ _ hef hfe => absurd hef (Nat.lt_asymm hfe)⟩
  h.1.eq_of_mem_iff h'.1 hmem

/-- Settles O15: what a canonical memory reads fixes its entries, and rising addresses fix their order. -/
theorem equalReadingMemoriesAreEqual : Obligations.EqualReadingMemoriesAreEqual := by
  intro c m m' h h' hread
  refine Memory.eq_of_mem_iff h h' fun e => ?_
  rw [Memory.mem_iff_read h, Memory.mem_iff_read h']
  exact and_congr_right fun hlt => by rw [hread e.1 hlt]

end Sys2Proof.Machine
end

section
/-! PROOFS. The word of a decoded instruction (spec/30_encoding.md R73), and the words
of CLS and DRW decoded. -/

namespace Sys2Proof

/-! ## Words by their high nibble and their selecting field (R72) -/

theorem wordNNN_of_op {w : Word} {op : Nibble} (h : fieldOp w = op) : wordNNN op (fieldNNN w) = w :=
  h ▸ wordNNN_fields w

theorem wordXNN_of_op {w : Word} {op : Nibble} (h : fieldOp w = op) : wordXNN op (fieldX w) (fieldNN w) = w :=
  h ▸ wordXNN_fields w

theorem wordXYN_of_op {w : Word} {op : Nibble} (h : fieldOp w = op) :
    wordXYN op (fieldX w) (fieldY w) (fieldN w) = w :=
  h ▸ wordXYN_fields w

theorem wordXff_of_op {w : Word} {op : Nibble} {ff : Byte} (h : fieldOp w = op) (hff : fieldNN w = ff) :
    wordXNN op (fieldX w) ff = w :=
  hff ▸ wordXNN_of_op h

theorem wordXYf_of_op {w : Word} {op f : Nibble} (h : fieldOp w = op) (hf : fieldN w = f) :
    wordXYN op (fieldX w) (fieldY w) f = w :=
  hf ▸ wordXYN_of_op h

/-! ## The encoding of a decoded word, family by family -/

/-- One test of the decoder: both branches encode to the word. -/
theorem encode_ite {p : Prop} [Decidable p] {i j : Instr} {w : Word} (hi : p → encode i = w)
    (hj : ¬ p → encode j = w) : encode (if p then i else j) = w := by
  split
  · exact hi ‹_›
  · exact hj ‹_›

theorem encode_decode0 {w : Word} (h : fieldOp w = 0x0#4) : encode (decode0 w) = w :=
  encode_ite Eq.symm fun _ => encode_ite Eq.symm fun _ => wordNNN_of_op h

theorem encode_decode5 {w : Word} (h : fieldOp w = 0x5#4) : encode (decode5 w) = w :=
  encode_ite (wordXYf_of_op h) fun _ => wordXYN_of_op h

/-- Family 8 tests fifteen low nibbles, and its last row is the sixteenth. -/
theorem encode_decode8 {w : Word} (h : fieldOp w = 0x8#4) : encode (decode8 w) = w := by
  unfold decode8
  iterate 15 refine encode_ite (wordXYf_of_op h) fun _ => ?_
  exact wordXYf_of_op h (by bv_omega)

theorem encode_decode9 {w : Word} (h : fieldOp w = 0x9#4) : encode (decode9 w) = w :=
  encode_ite (wordXYf_of_op h) fun _ => wordXYN_of_op h

theorem encode_decodeE {w : Word} (h : fieldOp w = 0xE#4) : encode (decodeE w) = w :=
  encode_ite (wordXff_of_op h) fun _ => encode_ite (wordXff_of_op h) fun _ => wordXNN_of_op h

theorem encode_decodeF {w : Word} (h : fieldOp w = 0xF#4) : encode (decodeF w) = w := by
  unfold decodeF
  iterate 9 refine encode_ite (wordXff_of_op h) fun _ => ?_
  exact wordXNN_of_op h

/-- Decoding drops no bit of a word (R73). -/
theorem encode_decodeWord (w : Word) : encode (decodeWord w) = w := by
  unfold decodeWord
  refine encode_ite encode_decode0 fun _ => encode_ite wordNNN_of_op fun _ => encode_ite wordNNN_of_op fun _ =>
    encode_ite wordXNN_of_op fun _ => encode_ite wordXNN_of_op fun _ => encode_ite encode_decode5 fun _ =>
    encode_ite wordXNN_of_op fun _ => encode_ite wordXNN_of_op fun _ => encode_ite encode_decode8 fun _ =>
    encode_ite encode_decode9 fun _ => encode_ite wordNNN_of_op fun _ => encode_ite wordNNN_of_op fun _ =>
    encode_ite wordXNN_of_op fun _ => encode_ite wordXYN_of_op fun _ => encode_ite encode_decodeE fun _ =>
    encode_decodeF ?_
  -- the high nibble is none of 0x0 to 0xE
  bv_omega

theorem decodeWord_cls : decodeWord 0x00E0#16 = .cls := by decide

theorem decodeWord_drw (x y : Reg) (n : Nibble) : decodeWord (wordXYN 0xD x y n) = .drw x y n := by
  simp [decodeWord, fieldOp_wordXYN, fieldX_wordXYN, fieldY_wordXYN, fieldN_wordXYN]

end Sys2Proof
end

section
/-! PROOFS. Frames: what each write of Machine/Ops.lean may change, and from that what each instruction and each step
may change (spec/40_cycle.md R94, R95). -/

namespace Sys2Proof.Machine

/-! ## Components -/

theorem Component.same_symm {s t : State} {c : Component} (h : c.same s t) : c.same t s := by
  cases c <;> exact Eq.symm h

theorem Component.same_trans {s t u : State} {c : Component} (h : c.same s t) (h' : c.same t u) : c.same s u := by
  cases c <;> exact Eq.trans h' h

/-! ## Frames in general -/

theorem Frame.refl (W : Component → Prop) (s : State) : Frame W s s := fun c _ => by cases c <;> rfl

theorem Frame.mono {W W' : Component → Prop} {s t : State} (h : Frame W s t) (hW : ∀ c, W c → W' c) : Frame W' s t :=
  fun c hc => h c fun hw => hc (hW c hw)

theorem Frame.trans {W : Component → Prop} {s t u : State} (h : Frame W s t) (h' : Frame W t u) : Frame W s u :=
  fun c hc => Component.same_trans (h c hc) (h' c hc)

/-- Two writes in a row. -/
theorem Frame.then {W W' : Component → Prop} {s t u : State} (h : Frame W s t) (h' : Frame W' t u) :
    Frame (fun c => W c ∨ W' c) s u :=
  (h.mono fun _ => .inl).trans (h'.mono fun _ => .inr)

/-- A component that changed is one that the frame names. -/
theorem Frame.written {W : Component → Prop} {s t : State} (h : Frame W s t) {c : Component} (hc : ¬ c.same s t) :
    W c :=
  by_contra fun hw => hc (h c hw)

/-! ## The frame of each write -/

theorem State.frame_setReg (s : State) (r : Reg) (v : Byte) : Frame (· = .reg r) s (s.setReg r v) := by
  intro c hc
  cases c with
  | reg k => exact s.reg_setReg_other v fun hk => hc (hk ▸ rfl)
  | _ => rfl

theorem State.frame_setI (s : State) (v : Word) : Frame (· = .indexReg) s (s.setI v) := by
  intro c hc
  cases c with
  | indexReg => exact absurd rfl hc
  | _ => rfl

theorem State.frame_setPc (s : State) (v : Word) : Frame (· = .pc) s (s.setPc v) := by
  intro c hc
  cases c with
  | pc => exact absurd rfl hc
  | _ => rfl

theorem State.frame_setDt (s : State) (v : Byte) : Frame (· = .dt) s (s.setDt v) := by
  intro c hc
  cases c with
  | dt => exact absurd rfl hc
  | _ => rfl

theorem State.frame_setSt (s : State) (v : Byte) : Frame (· = .st) s (s.setSt v) := by
  intro c hc
  cases c with
  | st => exact absurd rfl hc
  | _ => rfl

theorem State.frame_setDisplay (s : State) (v : BitVec pixelCount) :
    Frame (∃ p, · = .pixel p) s (s.setDisplay v) := by
  intro c hc
  cases c with
  | pixel p => exact absurd ⟨p, rfl⟩ hc
  | _ => rfl

theorem State.frame_setDrawPending (s : State) (v : Bool) : Frame (· = .drawFlag) s (s.setDrawPending v) := by
  intro c hc
  cases c with
  | drawFlag => exact absurd rfl hc
  | _ => rfl

theorem State.frame_setWaiting (s : State) (v : Option Reg) : Frame (· = .waiting) s (s.setWaiting v) := by
  intro c hc
  cases c with
  | waiting => exact absurd rfl hc
  | _ => rfl

theorem State.frame_countFree (s : State) : Frame (· = .freeCount) s s.countFree := by
  intro c hc
  cases c with
  | freeCount => exact absurd rfl hc
  | _ => rfl

/-- A pop writes the pointer and no entry (R24). -/
theorem State.frame_setSp (s : State) (n : Fin 17) : Frame (· = .sp) s (s.setStack s.stack n) := by
  intro c hc
  cases c with
  | sp => exact absurd rfl hc
  | _ => rfl

/-- A push writes one entry and the pointer (R24). -/
theorem State.frame_pushAt (s : State) (k : Fin 16) (a : Word) (n : Fin 17) :
    Frame (fun c => c = .stackEntry k ∨ c = .sp) s (s.setStack (s.stack.set k.val a) n) := by
  intro c hc
  cases c with
  | sp => exact absurd (.inr rfl) hc
  | stackEntry j =>
    have hkj : k.val ≠ j.val := fun h => hc (.inl (by rw [Fin.ext h]))
    exact Vector.getElem_set_ne k.isLt j.isLt hkj
  | _ => rfl

/-- A store through `I` writes the bytes at `ea(0)`, `ea(1)`, and so on (R59). -/
theorem State.frame_storeAtI (s : State) (bytes : List Byte) :
    Frame (fun c => ∃ k, k < bytes.length ∧ c = .byte (s.ea k)) s (s.storeAtI bytes) := by
  intro c hc
  cases c with
  | byte a => exact s.readByte_storeAtI_other bytes a fun k hk ha => hc ⟨k, hk, ha ▸ rfl⟩
  | _ => rfl

@[simp] theorem State.length_regsUpTo (s : State) (x : Reg) : (s.regsUpTo x).length = x.toNat + 1 := by
  have := x.isLt
  simp only [State.regsUpTo, List.length_take, Vector.length_toList]
  omega

/-- FX55 writes the bytes at `ea(0)` to `ea(x)` (R144). -/
theorem State.frame_storeRegs (s : State) (x : Reg) :
    Frame (fun c => ∃ k, k ≤ x.toNat ∧ c = .byte (s.ea k)) s (s.storeAtI (s.regsUpTo x)) :=
  (s.frame_storeAtI _).mono fun _ ⟨k, hk, hc⟩ => ⟨k, Nat.le_of_lt_succ (by simpa using hk), hc⟩

theorem State.frame_writeFlagAndResult (s : State) (x : Reg) (flag result : Byte) :
    Frame (fun c => c = .reg x ∨ c = .reg .vf) s (s.writeFlagAndResult x flag result) := by
  unfold State.writeFlagAndResult
  split
  · exact ((s.frame_setReg .vf flag).then (State.frame_setReg _ x result)).mono fun _ => Or.symm
  · exact (s.frame_setReg x result).then (State.frame_setReg _ .vf flag)

theorem State.frame_setRegs (s : State) (v : Vector Byte 16) {P : Reg → Prop}
    (hv : ∀ k, ¬ P k → v[k.toNat]'k.isLt = s.reg k) :
    Frame (fun c => ∃ k, P k ∧ c = .reg k) s (s.setRegs v) := by
  intro c hc
  cases c with
  | reg k => exact hv k fun hk => hc ⟨k, hk, rfl⟩
  | _ => rfl

/-- FX65 writes V0 to Vx (R145). -/
theorem State.frame_regsFromI (s : State) (x : Reg) :
    Frame (fun c => ∃ k : Reg, k.toNat ≤ x.toNat ∧ c = .reg k) s (s.setRegs (s.regsFromI x)) :=
  s.frame_setRegs _ fun k hk => by rw [State.regsFromI, Vector.getElem_ofFn, if_neg hk, State.reg]

/-! ## The frame of each instruction -/

/-- What an instruction that runs in state `s` may change beside `pc`. -/
def MayWrite : Instr → State → Component → Prop
  | .cls, _, c => (∃ p, c = .pixel p) ∨ c = .drawFlag
  | .ret, _, c => c = .sp
  | .call _, s, c => (∃ k : Fin 16, s.sp.val = k.val ∧ c = .stackEntry k) ∨ c = .sp
  | .ldImm x _, _, c | .addImm x _, _, c | .ldReg x _, _, c | .orReg x _, _, c | .andReg x _, _, c
  | .xorReg x _, _, c | .ldVxDt x, _, c => c = .reg x
  | .addReg x _, _, c | .sub x _, _, c | .shr x _, _, c | .subn x _, _, c | .shl x _, _, c =>
    c = .reg x ∨ c = .reg .vf
  | .rnd x _, _, c => c = .reg x ∨ c = .freeCount
  | .ldVxMem x, _, c => ∃ k : Reg, k.toNat ≤ x.toNat ∧ c = .reg k
  | .ldI _, _, c | .addI _, _, c | .ldF _, _, c => c = .indexReg
  | .drw _ _ _, _, c => ((∃ p, c = .pixel p) ∨ c = .reg .vf) ∨ c = .drawFlag
  | .skp _, _, c | .sknp _, _, c => c = .freeCount
  | .ldVxK _, _, c => c = .waiting
  | .ldDtVx _, _, c => c = .dt
  | .ldStVx _, _, c => c = .st
  | .ldB _, s, c => ∃ k, k < 3 ∧ c = .byte (s.ea k)
  | .ldMemVx x, s, c => ∃ k, k ≤ x.toNat ∧ c = .byte (s.ea k)
  | .sys _, _, _ | .jp _, _, _ | .seImm _ _, _, _ | .sneImm _ _, _, _ | .seReg _ _, _, _ | .sneReg _ _, _, _
  | .jpV0 _, _, _ | .nop88 _ _, _, _ | .nop89 _ _, _, _ | .nop8A _ _, _, _ | .nop8B _ _, _, _ | .nop8C _ _, _, _
  | .nop8D _ _, _, _ | .nop8F _ _, _, _ | .nopF _ _, _, _ | .unspec5 _ _ _, _, _ | .unspec9 _ _ _, _, _
  | .unspecE _ _, _, _ => False

/-- Phase 5 adds `pc` to what the instruction wrote (R95). -/
theorem Frame.complete {W : Component → Prop} {s u t : State} {e : Effect} (hw : Frame W s u)
    (h : complete e u = .next t) : Frame (fun c => W c ∨ c = .pc) s t := by
  obtain rfl := complete_eq_next.mp h
  exact hw.then (u.frame_setPc _)

/-- An instruction changes only `pc` and what it is said to write. -/
theorem exec_frame {i : Instr} {s t : State} (h : exec i s = .next t) :
    Frame (fun c => MayWrite i s c ∨ c = .pc) s t := by
  cases i with
  | sys | jp | seImm | sneImm | seReg | sneReg | jpV0 | nop88 | nop89 | nop8A | nop8B | nop8C | nop8D | nop8F | nopF =>
    exact (Frame.refl _ s).complete h
  | unspec5 | unspec9 | unspecE =>
    obtain ⟨-, rfl⟩ := unspecified_eq_next h
    exact (s.frame_setPc _).mono fun _ => .inr
  | ldImm | addImm | ldReg | orReg | andReg | xorReg | ldVxDt => exact (s.frame_setReg _ _).complete h
  | addReg | sub | shr | subn | shl => exact (s.frame_writeFlagAndResult _ _ _).complete h
  | rnd => exact ((s.frame_setReg _ _).then (State.frame_countFree _)).complete h
  | ldVxMem => exact (s.frame_regsFromI _).complete h
  | ldI | addI | ldF => exact (s.frame_setI _).complete h
  | ldDtVx => exact (s.frame_setDt _).complete h
  | ldStVx => exact (s.frame_setSt _).complete h
  | ldVxK => exact (s.frame_setWaiting _).complete h
  | ldB => exact (s.frame_storeAtI (bcdDigits _)).complete h
  | ldMemVx => exact (s.frame_storeRegs _).complete h
  | cls => exact ((s.frame_setDisplay _).then (State.frame_setDrawPending _ _)).complete h
  | drw =>
    exact (((s.frame_setDisplay _).then (State.frame_setReg _ _ _)).then (State.frame_setDrawPending _ _)).complete h
  | ret =>
    obtain ⟨k, -, rfl⟩ := execRet_eq_next h
    exact (s.frame_setSp _).then (State.frame_setPc _ _)
  | call =>
    obtain ⟨k, hk, rfl⟩ := execCall_eq_next h
    exact ((s.frame_pushAt k _ _).mono fun _ => Or.imp (⟨k, hk, ·⟩) id).then (State.frame_setPc _ _)
  | skp =>
    obtain ⟨_, rfl | rfl⟩ := execSkp_eq_next h
    · exact (s.frame_setPc _).mono fun _ => .inr
    · exact s.frame_countFree.then (State.frame_setPc _ _)
  | sknp =>
    obtain ⟨_, rfl | rfl⟩ := execSknp_eq_next h
    · exact (s.frame_setPc _).mono fun _ => .inr
    · exact s.frame_countFree.then (State.frame_setPc _ _)

/-- A component other than `pc` that an instruction changed is one that it is said to write. -/
theorem exec_written {i : Instr} {s t : State} {c : Component} (h : exec i s = .next t) (hc : ¬ c.same s t)
    (hpc : c ≠ .pc) : MayWrite i s c :=
  ((exec_frame h).written hc).resolve_right hpc

theorem not_mayWrite_config {i : Instr} {s : State} : ¬ MayWrite i s .config := by
  cases i <;> simp [MayWrite]

theorem not_mayWrite_key {i : Instr} {s : State} {k : Fin 16} : ¬ MayWrite i s (.key k) := by
  cases i <;> simp [MayWrite]

end Sys2Proof.Machine
end

section
/-! PROOFS. Which steps change a given component: the instructions' frames, read backwards
(spec/10_state.md R21 to R30). -/

namespace Sys2Proof.Machine

/-! ## From components to whole fields -/

theorem stack_eq_of_same {s t : State} (h : ∀ k, (Component.stackEntry k).same s t) : t.stack = s.stack :=
  Vector.ext fun k hk => h ⟨k, hk⟩

theorem keypad_eq_of_same {s t : State} (h : ∀ k, (Component.key k).same s t) : t.keypad = s.keypad :=
  Vector.ext fun k hk => h ⟨k, hk⟩

theorem display_eq_of_same {s t : State} (h : ∀ p, (Component.pixel p).same s t) : t.display = s.display :=
  BitVec.eq_of_getLsbD_eq fun p _ => h p

/-! ## What a step can change -/

/-- A step that answers a next state was a key-wait phase or ran the fetched instruction. -/
theorem step_eq_next {s t : State} (h : step s = .next t) :
    (∃ r, s.waiting = some r ∧ keyWait r s = .next t) ∨
    (s.waiting = none ∧ s.pc.toNat ≤ 0xFFE ∧ exec (decodeWord s.fetchWord) s = .next t) := by
  rcases step_cases s with ⟨r, hw, hs⟩ | ⟨_, _, hs⟩ | ⟨hw, hp, hs⟩ <;> rw [hs] at h
  · exact .inl ⟨r, hw, h⟩
  · cases h
  · exact .inr ⟨hw, hp, h⟩

theorem keyWait_frame {r : Reg} {s t : State} (h : keyWait r s = .next t) :
    Frame (fun c => (c = .reg r ∨ c = .waiting) ∨ c = .pc) s t := by
  rcases keyWait_eq_next h with ⟨_, rfl⟩ | ⟨k, _, rfl⟩
  · exact .refl _ _
  · exact ((s.frame_setReg _ _).then (State.frame_setWaiting _ _)).then (State.frame_setPc _ _)

/-- A component other than `pc` that a step changed was written by a key-wait phase or by the instruction whose word
was fetched. -/
theorem step_written {s t : State} {c : Component} (h : step s = .next t) (hc : ¬ c.same s t) (hpc : c ≠ .pc) :
    (∃ r, s.waiting = some r ∧ keyWait r s = .next t ∧ (c = .reg r ∨ c = .waiting)) ∨
    (s.waiting = none ∧ ∃ i, s.fetchWord = encode i ∧ exec i s = .next t ∧ MayWrite i s c) := by
  rcases step_eq_next h with ⟨r, hw, hk⟩ | ⟨hw, -, he⟩
  · exact .inl ⟨r, hw, hk, ((keyWait_frame hk).written hc).resolve_right hpc⟩
  · exact .inr ⟨hw, _, (encode_decodeWord _).symm, he, exec_written he hc hpc⟩

/-- A key-wait phase writes a register, the wait and `pc`: every other component is changed by instructions only. -/
theorem step_written_exec {s t : State} {c : Component} (h : step s = .next t) (hc : ¬ c.same s t)
    (hother : ¬ (c = .pc ∨ c = .waiting ∨ ∃ r, c = .reg r)) :
    s.waiting = none ∧ ∃ i, s.fetchWord = encode i ∧ exec i s = .next t ∧ MayWrite i s c := by
  obtain ⟨hpc, hwait, hreg⟩ : c ≠ .pc ∧ c ≠ .waiting ∧ ¬ ∃ r, c = .reg r := by simpa only [not_or] using hother
  rcases step_written h hc hpc with ⟨r, -, -, hr | hr⟩ | hi
  · exact absurd ⟨r, hr⟩ hreg
  · exact absurd hr hwait
  · exact hi

/-! ## Index register (R22) -/

/-- Settles O39: of all instructions' frames, three name `I`. -/
theorem onlyThreeInstructionsWriteI : Obligations.OnlyThreeInstructionsWriteI := by
  intro s t h hI
  obtain ⟨hw, i, hi, -, hm⟩ := step_written_exec (c := .indexReg) h hI (by simp)
  refine ⟨hw, ?_⟩
  cases i with
  | ldI nnn => exact .inl ⟨nnn, hi⟩
  | addI x => exact .inr ⟨x, .inl hi⟩
  | ldF x => exact .inr ⟨x, .inr hi⟩
  | _ => simp [MayWrite] at hm

/-! ## Timers (R26, R96) -/

/-- Settles O48: only FX15 has `dt` in its frame and only FX18 has `st`, and each writes Vx. -/
theorem stepNeverTicksTheTimers : Obligations.StepNeverTicksTheTimers := by
  intro s t h
  constructor
  · intro hdt
    obtain ⟨hw, i, hi, he, hm⟩ := step_written_exec (c := .dt) h hdt (by simp)
    cases i with
    | ldDtVx x =>
      obtain rfl := complete_eq_next.mp he
      exact ⟨hw, x, hi, rfl⟩
    | _ => simp [MayWrite] at hm
  · intro hst
    obtain ⟨hw, i, hi, he, hm⟩ := step_written_exec (c := .st) h hst (by simp)
    cases i with
    | ldStVx x =>
      obtain rfl := complete_eq_next.mp he
      exact ⟨hw, x, hi, rfl⟩
    | _ => simp [MayWrite] at hm

/-! ## The return stack (R24) -/

/-- A change of the pointer or of the stack shows in the pointer or in one entry. -/
theorem stack_changed {s t : State} (h : t.sp ≠ s.sp ∨ t.stack ≠ s.stack) :
    ∃ c : Component, ¬ c.same s t ∧ (c = .sp ∨ ∃ k, c = .stackEntry k) := by
  rcases h with h | h
  · exact ⟨.sp, h, .inl rfl⟩
  · by_contra hno
    exact h (stack_eq_of_same fun k => by_contra fun hk => hno ⟨_, hk, .inr ⟨k, rfl⟩⟩)

theorem mayWrite_stack {i : Instr} {s : State} {c : Component} (h : MayWrite i s c)
    (hc : c = .sp ∨ ∃ k, c = .stackEntry k) :
    i = .ret ∨ ∃ nnn, i = .call nnn := by
  cases i with
  | ret => exact .inl rfl
  | call nnn => exact .inr ⟨nnn, rfl⟩
  | _ => rcases hc with rfl | ⟨k, rfl⟩ <;> simp [MayWrite] at h

/-- Settles O24: only the frames of RET and CALL name the pointer or an entry. -/
theorem onlyCallAndReturnTouchTheStack : Obligations.OnlyCallAndReturnTouchTheStack := by
  intro s t h hst
  obtain ⟨c, hne, hc⟩ := stack_changed hst
  obtain ⟨hw, i, hi, he, hm⟩ := step_written_exec h hne (by rcases hc with rfl | ⟨k, rfl⟩ <;> simp)
  refine ⟨hw, ?_⟩
  rcases mayWrite_stack hm hc with rfl | ⟨nnn, rfl⟩
  · obtain ⟨k, hk, rfl⟩ := execRet_eq_next he
    exact .inl ⟨hi, hk.symm, rfl⟩
  · obtain ⟨k, hk, rfl⟩ := execCall_eq_next he
    exact .inr ⟨⟨nnn, hi⟩, by simp [hk]⟩

/-! ## Keypad, configuration and wait (R28, R30) -/

/-- Settles O49: no frame names a key or the configuration, FX0A's alone names the wait, and a key-wait phase that
changes the wait ends it. -/
theorem keypadIsOnlyReadAndWaitOnlyByKeyWait : Obligations.KeypadIsOnlyReadAndWaitOnlyByKeyWait := by
  intro s t h
  refine ⟨keypad_eq_of_same fun k => ?_, ?_, fun hne => ?_⟩
  · by_contra hk
    obtain ⟨-, i, -, -, hm⟩ := step_written_exec h hk (by simp)
    exact not_mayWrite_key hm
  · by_contra hc
    obtain ⟨-, i, -, -, hm⟩ := step_written_exec (c := .config) h hc (by simp)
    exact not_mayWrite_config hm
  · rcases step_written (c := .waiting) h hne (by simp) with ⟨r, hw, hk, -⟩ | ⟨hw, i, hi, he, hm⟩
    · rcases keyWait_eq_next hk with ⟨-, rfl⟩ | ⟨k, -, rfl⟩
      · exact absurd rfl hne
      · exact .inr ⟨by simp [hw], rfl⟩
    · cases i with
      | ldVxK x =>
        obtain rfl := complete_eq_next.mp he
        exact .inl ⟨x, hw, hi, rfl⟩
      | _ => simp [MayWrite] at hm

/-! ## Display and draw flag (R27, R29, R163) -/

theorem mayWrite_display {i : Instr} {s : State} {c : Component} (h : MayWrite i s c)
    (hc : c = .drawFlag ∨ ∃ p, c = .pixel p) :
    i = .cls ∨ ∃ x y n, i = .drw x y n := by
  cases i with
  | cls => exact .inl rfl
  | drw x y n => exact .inr ⟨x, y, n, rfl⟩
  | _ => rcases hc with rfl | ⟨k, rfl⟩ <;> simp [MayWrite] at h

/-- 00E0 and DXYN set the draw flag whether or not a pixel changed (R163). -/
theorem exec_sets_drawFlag {i : Instr} {s t : State} (hi : i = .cls ∨ ∃ x y n, i = .drw x y n)
    (h : exec i s = .next t) : t.drawPending = true := by
  rcases hi with rfl | ⟨x, y, n, rfl⟩
  · obtain rfl := complete_eq_next.mp h
    rfl
  · obtain rfl := complete_eq_next.mp h
    rfl

/-- A change of the display or of the draw flag shows in a pixel or in the flag. -/
theorem display_changed {s t : State} (h : t.display ≠ s.display ∨ t.drawPending ≠ s.drawPending) :
    ∃ c : Component, ¬ c.same s t ∧ (c = .drawFlag ∨ ∃ p, c = .pixel p) := by
  rcases h with h | h
  · by_contra hno
    exact h (display_eq_of_same fun p => by_contra fun hp => hno ⟨_, hp, .inr ⟨p, rfl⟩⟩)
  · exact ⟨.drawFlag, h, .inl rfl⟩

/-- A step that changed the display or the draw flag ran 00E0 or DXYN. -/
theorem step_display {s t : State} (h : step s = .next t)
    (hne : t.display ≠ s.display ∨ t.drawPending ≠ s.drawPending) :
    s.waiting = none ∧ ∃ i, s.fetchWord = encode i ∧ exec i s = .next t ∧ (i = .cls ∨ ∃ x y n, i = .drw x y n) := by
  obtain ⟨c, hc, hd⟩ := display_changed hne
  obtain ⟨hw, i, hi, he, hm⟩ := step_written_exec h hc (by rcases hd with rfl | ⟨p, rfl⟩ <;> simp)
  exact ⟨hw, i, hi, he, mayWrite_display hm hd⟩

/-- Settles O43: only the frames of 00E0 and DXYN name a pixel or the draw flag, and both set the flag. -/
theorem onlyClearAndDrawTouchTheDisplay : Obligations.OnlyClearAndDrawTouchTheDisplay := by
  intro s t h
  refine ⟨?_, fun hne => ?_, fun hw hword => ?_⟩
  · by_contra hno
    obtain ⟨hkept, hclear⟩ := not_or.mp hno
    obtain ⟨-, i, -, he, hi⟩ := step_display h (.inr hkept)
    exact hclear (exec_sets_drawFlag hi he)
  · obtain ⟨hw, i, hi, -, rfl | ⟨x, y, n, rfl⟩⟩ := step_display h hne
    · exact ⟨hw, .inl hi⟩
    · exact ⟨hw, .inr ⟨x, y, n, hi⟩⟩
  · rcases step_eq_next h with ⟨r, hr, -⟩ | ⟨-, -, he⟩
    · simp [hw] at hr
    · refine exec_sets_drawFlag ?_ he
      rcases hword with hword | ⟨x, y, n, hword⟩
      · exact .inl (by rw [hword, decodeWord_cls])
      · exact .inr ⟨x, y, n, hword ▸ decodeWord_drw x y n⟩

/-! ## VF (R21) -/

/-- Settles O33: the frames that name VF are those of the flag-writing instructions and those whose destination is
register F. -/
theorem onlyNamedInstructionsWriteVf : Obligations.OnlyNamedInstructionsWriteVf := by
  intro s t h hne
  rcases step_written (c := .reg .vf) h hne (by simp) with ⟨r, hw, -, hc⟩ | ⟨hw, i, hi, -, hm⟩
  · refine .inl ?_
    rcases hc with hc | hc <;> cases hc
    exact hw
  · refine .inr ⟨hw, ?_⟩
    cases i with
    | addReg x y => exact .inl ⟨x, y, .inl hi⟩
    | sub x y => exact .inl ⟨x, y, .inr (.inl hi)⟩
    | shr x y => exact .inl ⟨x, y, .inr (.inr (.inl hi))⟩
    | subn x y => exact .inl ⟨x, y, .inr (.inr (.inr (.inl hi)))⟩
    | shl x y => exact .inl ⟨x, y, .inr (.inr (.inr (.inr hi)))⟩
    | drw x y n => exact .inr (.inl ⟨x, y, n, hi⟩)
    | ldImm x nn => cases hm; exact .inr (.inr (.inl ⟨nn, .inl hi⟩))
    | addImm x nn => cases hm; exact .inr (.inr (.inl ⟨nn, .inr (.inl hi)⟩))
    | rnd x nn =>
      rcases hm with hm | hm <;> cases hm
      exact .inr (.inr (.inl ⟨nn, .inr (.inr hi)⟩))
    | ldReg x y => cases hm; exact .inr (.inr (.inr (.inl ⟨y, .inl hi⟩)))
    | orReg x y => cases hm; exact .inr (.inr (.inr (.inl ⟨y, .inr (.inl hi)⟩)))
    | andReg x y => cases hm; exact .inr (.inr (.inr (.inl ⟨y, .inr (.inr (.inl hi))⟩)))
    | xorReg x y => cases hm; exact .inr (.inr (.inr (.inl ⟨y, .inr (.inr (.inr hi))⟩)))
    | ldVxDt x => cases hm; exact .inr (.inr (.inr (.inr (.inl hi))))
    | ldVxMem x =>
      obtain ⟨k, hk, hc⟩ := hm
      cases hc
      have hx : x = .vf := by bv_omega
      subst hx
      exact .inr (.inr (.inr (.inr (.inr hi))))
    | _ => simp [MayWrite] at hm

end Sys2Proof.Machine
end

section
/-! PROOFS. Every step keeps the invariant `Inv` of Safety.lean, one of its four parts at a time
(spec/10_state.md R23, R30, R31; spec/41_control.md R103, R108). -/

namespace Sys2Proof.Machine

theorem complete_pc {e : Effect} {s t : State} (h : complete e s = .next t) : t.pc = e.newPc s.pc := by
  obtain rfl := complete_eq_next.mp h
  rfl

/-! ## Memory (R31) -/

/-- No instruction but FX33 and FX55 touches the memory's data. -/
theorem exec_memory_eq {i : Instr} {s t : State} (hB : ∀ x, i ≠ .ldB x) (hM : ∀ x, i ≠ .ldMemVx x)
    (h : exec i s = .next t) : t.memory = s.memory := by
  cases i with
  | ldB x => exact absurd rfl (hB x)
  | ldMemVx x => exact absurd rfl (hM x)
  | ret =>
    obtain ⟨k, -, rfl⟩ := execRet_eq_next h
    rfl
  | call =>
    obtain ⟨k, -, rfl⟩ := execCall_eq_next h
    rfl
  | skp => obtain ⟨_, rfl | rfl⟩ := execSkp_eq_next h <;> rfl
  | sknp => obtain ⟨_, rfl | rfl⟩ := execSknp_eq_next h <;> rfl
  | unspec5 | unspec9 | unspecE =>
    obtain ⟨-, rfl⟩ := unspecified_eq_next h
    rfl
  | addReg | sub | shr | subn | shl =>
    obtain rfl := complete_eq_next.mp h
    exact State.writeFlagAndResult_memory _ _ _ _
  | _ =>
    obtain rfl := complete_eq_next.mp h
    rfl

theorem exec_config {i : Instr} {s t : State} (h : exec i s = .next t) : t.config = s.config :=
  by_contra fun hc => not_mayWrite_config (exec_written (c := .config) h hc (by simp))

theorem exec_memory_wf {i : Instr} {s t : State} (hm : Memory.wf s.config s.memory) (h : exec i s = .next t) :
    Memory.wf t.config t.memory := by
  rw [exec_config h]
  cases i with
  | ldB | ldMemVx =>
    obtain rfl := complete_eq_next.mp h
    exact State.wf_storeAtI hm _
  | _ => exact (exec_memory_eq (by simp) (by simp) h) ▸ hm

/-! ## Program counter (R23, R95) -/

theorem addr_toNat_le (nnn : Addr) : (nnn.setWidth 16 : Word).toNat ≤ 0xFFF := by bv_omega

/-- BNNN goes furthest: 0xFFF + 0xFF (R108). -/
theorem jpV0_target_toNat_le (nnn : Addr) (v : Byte) : (nnn.setWidth 16 + v.setWidth 16 : Word).toNat ≤ 0x10FE := by
  bv_omega

theorem newPc_next_toNat_le {pc : Word} (hp : pc.toNat ≤ 0xFFE) : (Effect.newPc pc .next).toNat ≤ 0x10FE := by
  simp only [Effect.newPc]
  bv_omega

theorem newPc_skip_toNat_le {pc : Word} (hp : pc.toNat ≤ 0xFFE) (taken : Bool) :
    (Effect.newPc pc (.skip taken)).toNat ≤ 0x10FE := by
  cases taken <;> simp only [Effect.newPc, if_true, Bool.false_eq_true, if_false] <;> bv_omega

/-- From a `pc` that can be fetched at, no instruction takes `pc` past 0x10FE, when the stack holds addresses up to
0x1000. -/
theorem exec_pc_le {i : Instr} {s t : State} (hp : s.pc.toNat ≤ 0xFFE) (hs : ∀ k : Fin 16, s.stack[k].toNat ≤ 0x1000)
    (h : exec i s = .next t) : t.pc.toNat ≤ 0x10FE := by
  have of_next {u : State} (hc : complete .next u = .next t) (hu : u.pc = s.pc) : t.pc.toNat ≤ 0x10FE :=
    complete_pc hc ▸ newPc_next_toNat_le (hu ▸ hp)
  cases i with
  | ret =>
    obtain ⟨k, -, rfl⟩ := execRet_eq_next h
    exact (hs k).trans (by omega)
  | call nnn =>
    obtain ⟨k, -, rfl⟩ := execCall_eq_next h
    exact (addr_toNat_le nnn).trans (by omega)
  | sys nnn | jp nnn => exact complete_pc h ▸ (addr_toNat_le nnn).trans (by omega)
  | jpV0 nnn => exact complete_pc h ▸ jpV0_target_toNat_le nnn _
  | seImm | sneImm | seReg | sneReg => exact complete_pc h ▸ newPc_skip_toNat_le hp _
  | skp => obtain ⟨_, rfl | rfl⟩ := execSkp_eq_next h <;> exact newPc_skip_toNat_le hp _
  | sknp => obtain ⟨_, rfl | rfl⟩ := execSknp_eq_next h <;> exact newPc_skip_toNat_le hp _
  | unspec5 | unspec9 | unspecE =>
    obtain ⟨-, rfl⟩ := unspecified_eq_next h
    exact newPc_next_toNat_le hp
  | ldVxK => exact complete_pc h ▸ (show s.pc.toNat ≤ 0x10FE by omega)
  | addReg | sub | shr | subn | shl => exact of_next h (State.writeFlagAndResult_pc _ _ _ _)
  | _ => exact of_next h rfl

/-! ## Return stack (R103) -/

/-- CALL pushes an address of at most 0x1000, and no other instruction writes an entry. -/
theorem exec_stack_le {i : Instr} {s t : State} (hp : s.pc.toNat ≤ 0xFFE)
    (hs : ∀ k : Fin 16, s.stack[k].toNat ≤ 0x1000) (h : exec i s = .next t) (k : Fin 16) :
    t.stack[k].toNat ≤ 0x1000 := by
  by_cases hsame : (Component.stackEntry k).same s t
  · exact (congrArg BitVec.toNat hsame).trans_le (hs k)
  · rcases mayWrite_stack (exec_written h hsame (by simp)) (.inr ⟨k, rfl⟩) with rfl | ⟨nnn, rfl⟩
    · obtain ⟨j, -, rfl⟩ := execRet_eq_next h
      exact hs k
    · obtain ⟨j, -, rfl⟩ := execCall_eq_next h
      simp only [State.setPc_stack, State.setStack_stack, Fin.getElem_fin, Vector.getElem_set]
      split
      · bv_omega
      · exact hs k

/-! ## The wait (R30) -/

/-- An instruction that leaves the machine waiting is the FX0A at `pc`, and stays there. -/
theorem exec_waiting_at {s t : State} {r : Reg} (hw : s.waiting = none) (hp : s.pc.toNat ≤ 0xFFE)
    (h : exec (decodeWord s.fetchWord) s = .next t) (hr : t.waiting = some r) :
    t.pc.toNat ≤ 0xFFE ∧ t.fetchWord = wordXNN 0xF r 0x0A := by
  have hword := encode_decodeWord s.fetchWord
  have hm : MayWrite (decodeWord s.fetchWord) s .waiting :=
    exec_written (c := .waiting) h (by simp [Component.same, hw, hr]) (by simp)
  generalize decodeWord s.fetchWord = i at hword hm h
  cases i with
  | ldVxK x =>
    obtain rfl := complete_eq_next.mp h
    obtain rfl : x = r := Option.some.inj hr
    exact ⟨by simpa [Effect.newPc] using hp, hword.symm⟩
  | _ => simp [MayWrite] at hm

/-! ## The step -/

theorem exec_keeps_inv {s t : State} (hs : Inv s) (hw : s.waiting = none) (hp : s.pc.toNat ≤ 0xFFE)
    (h : exec (decodeWord s.fetchWord) s = .next t) : Inv t where
  memory_wf := exec_memory_wf hs.memory_wf h
  pc_le := exec_pc_le hp hs.stack_le h
  stack_le := exec_stack_le hp hs.stack_le h
  waiting_at _ := exec_waiting_at hw hp h

/-- A key-wait phase stays at its FX0A or ends the wait just past it (R91). -/
theorem keyWait_keeps_inv {r : Reg} {s t : State} (hs : Inv s) (hw : s.waiting = some r)
    (h : keyWait r s = .next t) : Inv t := by
  rcases keyWait_eq_next h with ⟨-, rfl⟩ | ⟨k, -, rfl⟩
  · exact hs
  · obtain ⟨hp, -⟩ := hs.waiting_at r hw
    exact ⟨hs.memory_wf, newPc_next_toNat_le hp, hs.stack_le, by simp⟩

/-- Settles O12: a key-wait phase keeps the invariant, and so does the instruction fetched at a `pc` in bounds. -/
theorem stepKeepsTheInvariant : Obligations.StepKeepsTheInvariant := by
  intro s t hs h
  rcases step_eq_next h with ⟨r, hw, hk⟩ | ⟨hw, hp, he⟩
  · exact keyWait_keeps_inv hs hw hk
  · exact exec_keeps_inv hs hw hp he

end Sys2Proof.Machine
end

section
/-! PROOFS. What no step reads: the draw flag, the sound timer and the dead entries of the return stack
(spec/10_state.md R24, R26, R29). Two states alike in everything else write the same values, instruction by
instruction; with the frames, whatever differed before differs after, and nothing more. -/

namespace Sys2Proof.Machine

/-! ## Outcomes that agree -/

/-- The same fault, the same refusal, or next states that `R` relates. -/
inductive SameOutcome (R : State → State → Prop) : Result → Result → Prop
  | next {t t' : State} (h : R t t') : SameOutcome R (.next t) (.next t')
  | fault (f : Fault) : SameOutcome R (.fault f) (.fault f)
  | refused (r : Refusal) : SameOutcome R (.refused r) (.refused r)

theorem SameOutcome.mono {R R' : State → State → Prop} {a b : Result} (h : SameOutcome R a b)
    (hR : ∀ t t', a = .next t → b = .next t' → R t t' → R' t t') : SameOutcome R' a b := by
  cases h with
  | next h => exact .next (hR _ _ rfl rfl h)
  | fault f => exact .fault f
  | refused r => exact .refused r

/-- The form in which the obligations say that two outcomes agree. -/
theorem SameOutcome.transfer {R : State → State → Prop} {a b : Result} (h : SameOutcome R a b) :
    (∀ t, a = .next t → ∃ t', b = .next t' ∧ R t t') ∧ (∀ f, a = .fault f → b = .fault f) ∧
    (∀ r, a = .refused r → b = .refused r) := by
  cases h with
  | next h => exact ⟨fun t ht => Host.Outcome.next.inj ht ▸ ⟨_, rfl, h⟩, by simp, by simp⟩
  | fault f => exact ⟨by simp, fun _ => id, by simp⟩
  | refused r => exact ⟨by simp, by simp, fun _ => id⟩

/-- The states agree on the components that `W` names and on `pc`. -/
def AgreeOn (W : Component → Prop) (t t' : State) : Prop := ∀ c, W c ∨ c = .pc → c.same t t'

theorem SameOutcome.raiseFatal {R : State → State → Prop} {s u : State} (f : Word → Fault) (h : u.pc = s.pc) :
    SameOutcome R (raiseFatal f s) (raiseFatal f u) := by
  unfold Machine.raiseFatal
  exact h ▸ .fault _

theorem SameOutcome.refuse {R : State → State → Prop} {s u : State} (r : Word → Refusal) (h : u.pc = s.pc) :
    SameOutcome R (refuse r s) (refuse r u) := by
  unfold Machine.refuse
  exact h ▸ .refused _

/-! ## States that read alike -/

/-- A stack entry that is not live while `n` are (R24). -/
def DeadEntry (n : Nat) (c : Component) : Prop := ∃ k : Fin 16, c = .stackEntry k ∧ n ≤ k.val

/-- The components that no step reads, while `n` stack entries are live. -/
def Unread (n : Nat) (c : Component) : Prop := c = .drawFlag ∨ c = .st ∨ DeadEntry n c

/-- Everything a step can read is the same in both states. -/
structure ReadAlike (s u : State) : Prop where
  regs : u.regs = s.regs
  I : u.I = s.I
  pc : u.pc = s.pc
  sp : u.sp = s.sp
  dt : u.dt = s.dt
  display : u.display = s.display
  keypad : u.keypad = s.keypad
  waiting : u.waiting = s.waiting
  config : u.config = s.config
  freeCount : u.freeCount = s.freeCount
  readByte : ∀ a, u.readByte a = s.readByte a
  live : ∀ k : Fin 16, k.val < s.sp.val → u.stack[k] = s.stack[k]

theorem regs_eq_of_same {s t : State} (h : ∀ r, (Component.reg r).same s t) : t.regs = s.regs :=
  Vector.ext fun k hk => by simpa [Component.same, State.reg, Nat.mod_eq_of_lt hk] using h (BitVec.ofNat 4 k)

theorem readAlike_of_frame {s u : State} (h : Frame (Unread s.sp.val) s u) : ReadAlike s u where
  regs := regs_eq_of_same fun r => h _ (by simp [Unread, DeadEntry])
  I := h .indexReg (by simp [Unread, DeadEntry])
  pc := h .pc (by simp [Unread, DeadEntry])
  sp := h .sp (by simp [Unread, DeadEntry])
  dt := h .dt (by simp [Unread, DeadEntry])
  display := display_eq_of_same fun p => h _ (by simp [Unread, DeadEntry])
  keypad := keypad_eq_of_same fun k => h _ (by simp [Unread, DeadEntry])
  waiting := h .waiting (by simp [Unread, DeadEntry])
  config := h .config (by simp [Unread, DeadEntry])
  freeCount := h .freeCount (by simp [Unread, DeadEntry])
  readByte a := h (.byte a) (by simp [Unread, DeadEntry])
  live k hk := h (.stackEntry k) (by simpa [Unread, DeadEntry] using hk)

/-- Memories that read alike still do after the same writes (R59). -/
theorem Memory.read_writeAll_congr {c : Config} {m m' : Memory} (h : ∀ a, Memory.read c m' a = Memory.read c m a)
    (place : Nat → Nat) (k : Nat) (vs : List Byte) (a : Nat) :
    Memory.read c (Memory.writeAll c place k vs m') a = Memory.read c (Memory.writeAll c place k vs m) a := by
  induction vs generalizing k m m' with
  | nil => exact h a
  | cons v vs ih => exact ih (fun b => by rw [Memory.read_write, Memory.read_write, h]) (k + 1)

section
variable {s u : State} (h : ReadAlike s u)
include h

/-! ## What the operations read -/

theorem ReadAlike.reg (r : Reg) : u.reg r = s.reg r := by
  simp only [State.reg, h.regs]

theorem ReadAlike.ea (k : Nat) : u.ea k = s.ea k := by
  simp only [State.ea, h.I]

theorem ReadAlike.fetchWord : u.fetchWord = s.fetchWord := by
  simp only [State.fetchWord, h.pc, h.readByte]

theorem ReadAlike.firstPressed : u.firstPressed = s.firstPressed := by
  simp only [State.firstPressed, h.keypad]

theorem ReadAlike.key (k : Nibble) : u.key k = s.key k := by
  simp only [State.key, h.keypad]

theorem ReadAlike.regsUpTo (x : Reg) : u.regsUpTo x = s.regsUpTo x := by
  simp only [State.regsUpTo, h.regs]

theorem ReadAlike.regsFromI (x : Reg) : u.regsFromI x = s.regsFromI x := by
  simp only [State.regsFromI, h.regs, h.readByte, h.ea]

theorem ReadAlike.drawSprite (x y : Reg) (n : Nibble) : u.drawSprite x y n = s.drawSprite x y n := by
  simp only [State.drawSprite, State.spriteCol, State.spriteRow, h.display, h.readByte, h.ea, h.reg]

theorem ReadAlike.writeFlagAndResult_regs (x : Reg) (flag result : Byte) :
    (u.writeFlagAndResult x flag result).regs = (s.writeFlagAndResult x flag result).regs := by
  simp only [State.writeFlagAndResult, h.config]
  split <;> simp only [State.setReg_regs, h.regs]

theorem ReadAlike.readByte_storeAtI (bytes : List Byte) (a : Nat) :
    (u.storeAtI bytes).readByte a = (s.storeAtI bytes).readByte a := by
  have hread := h.readByte
  simp only [State.readByte, h.config] at hread
  simp only [State.storeAtI, State.readByte_setMemory, h.config, show u.ea = s.ea from funext h.ea,
    Memory.read_writeAll_congr hread]

theorem ReadAlike.mayWrite (i : Instr) (c : Component) : MayWrite i u c ↔ MayWrite i s c := by
  cases i with
  | call | ldB | ldMemVx => simp only [MayWrite, h.sp, h.ea]
  | _ => exact Iff.rfl

/-! ## What the instructions write -/

/-- Ends of an instruction: with the same effect and the same written components, the next states agree on these and
on `pc`. -/
theorem ReadAlike.ends {W : Component → Prop} {s' u' : State} {e e' : Effect} (he : e' = e)
    (hs : s'.pc = s.pc) (hu : u'.pc = u.pc) (hw : ∀ c, W c → c.same s' u') :
    SameOutcome (AgreeOn W) (complete e s') (complete e' u') := by
  refine .next ?_
  rw [he, hs, hu, h.pc]
  rintro c (hc | rfl)
  · have := hw c hc
    cases c with
    | pc => rfl
    | _ => exact this
  · rfl

/-- Instructions that write `pc` only. -/
theorem ReadAlike.ends_pc {e e' : Effect} (he : e' = e) :
    SameOutcome (AgreeOn fun _ => False) (complete e s) (complete e' u) :=
  h.ends he rfl rfl fun _ => False.elim

theorem ReadAlike.ends_setReg (x : Reg) {v v' : Byte} (hv : v' = v) :
    SameOutcome (AgreeOn (· = .reg x))
      (complete .next (s.setReg x v)) (complete .next (u.setReg x v')) :=
  h.ends rfl rfl rfl (by rintro c rfl; simp [Component.same, hv])

theorem ReadAlike.ends_setI {v v' : Word} (hv : v' = v) :
    SameOutcome (AgreeOn (· = .indexReg))
      (complete .next (s.setI v)) (complete .next (u.setI v')) :=
  h.ends rfl rfl rfl (by rintro c rfl; exact hv)

theorem ReadAlike.ends_writeFlagAndResult (x : Reg) {f f' r r' : Byte} (hf : f' = f) (hr : r' = r) :
    SameOutcome (AgreeOn fun c => c = .reg x ∨ c = .reg .vf)
      (complete .next (s.writeFlagAndResult x f r)) (complete .next (u.writeFlagAndResult x f' r')) := by
  subst hf hr
  have hregs := h.writeFlagAndResult_regs x f' r'
  refine h.ends rfl (s.writeFlagAndResult_pc _ _ _) (u.writeFlagAndResult_pc _ _ _) ?_
  rintro c (rfl | rfl) <;> simp only [Component.same, State.reg, hregs]

/-- Two key reads answer alike: the same refusal, or the same key and the same count of free values. -/
theorem ReadAlike.readKey (v : Byte) :
    (∃ r, s.readKey v = .error r ∧ u.readKey v = .error r) ∨
    ∃ b s' u', s.readKey v = .ok (b, s') ∧ u.readKey v = .ok (b, u') ∧ s'.pc = s.pc ∧ u'.pc = u.pc ∧
      u'.freeCount = s'.freeCount := by
  simp only [State.readKey, h.config, h.pc, h.key, h.freeCount]
  split
  · exact .inr ⟨_, _, _, rfl, rfl, rfl, h.pc, h.freeCount⟩
  · split
    · exact .inl ⟨_, rfl, rfl⟩
    · exact .inr ⟨_, _, _, rfl, rfl, rfl, h.pc, h.freeCount⟩
    · exact .inr ⟨_, _, _, rfl, rfl, rfl, h.pc, h.freeCount⟩
    · exact .inr ⟨_, _, _, rfl, rfl, rfl, h.pc, congrArg (· + 1) h.freeCount⟩

theorem ReadAlike.ends_unspecified : SameOutcome (AgreeOn fun _ => False)
    (unspecified s) (unspecified u) := by
  simp only [Machine.unspecified, h.config]
  split
  · exact .refuse _ h.pc
  · exact h.ends_pc rfl

end

/-- What an instruction writes depends only on what can be read. -/
theorem exec_writes_alike {s u : State} (h : ReadAlike s u) (i : Instr) :
    SameOutcome (AgreeOn (MayWrite i s)) (exec i s) (exec i u) := by
  cases i with
  | sys | jp | nop88 | nop89 | nop8A | nop8B | nop8C | nop8D | nop8F | nopF => exact h.ends_pc rfl
  | seImm | sneImm | seReg | sneReg | jpV0 => exact h.ends_pc (by simp only [h.reg])
  | unspec5 | unspec9 | unspecE => exact h.ends_unspecified
  | ldImm => exact h.ends_setReg _ rfl
  | addImm | ldReg | orReg | andReg | xorReg => exact h.ends_setReg _ (by simp only [h.reg])
  | ldVxDt => exact h.ends_setReg _ h.dt
  | addReg | sub | shr | subn | shl =>
    exact h.ends_writeFlagAndResult _ (by simp only [h.reg]) (by simp only [h.reg])
  | ldI => exact h.ends_setI rfl
  | addI | ldF => exact h.ends_setI (by simp only [h.reg, h.I])
  | rnd x nn =>
    refine h.ends rfl rfl rfl ?_
    rintro c (rfl | rfl)
    · simp [Component.same, h.freeCount]
    · exact congrArg (· + 1) h.freeCount
  | ldVxMem x =>
    refine h.ends rfl rfl rfl ?_
    rintro c ⟨k, -, rfl⟩
    simp only [Component.same, State.reg_setRegs, h.regsFromI]
  | ldDtVx x => exact h.ends rfl rfl rfl (by rintro c rfl; exact h.reg x)
  | ldStVx x => exact h.ends rfl rfl rfl (by rintro c rfl; exact h.reg x)
  | ldVxK x => exact h.ends rfl rfl rfl (by rintro c rfl; rfl)
  | ldB x =>
    refine h.ends rfl rfl rfl ?_
    rintro c ⟨k, -, rfl⟩
    rw [h.reg]
    exact h.readByte_storeAtI _ _
  | ldMemVx x =>
    refine h.ends rfl rfl rfl ?_
    rintro c ⟨k, -, rfl⟩
    rw [h.regsUpTo]
    exact h.readByte_storeAtI _ _
  | cls => exact h.ends rfl rfl rfl (by rintro c (⟨p, rfl⟩ | rfl) <;> rfl)
  | drw x y n =>
    refine h.ends rfl rfl rfl ?_
    rw [h.drawSprite]
    rintro c ((⟨p, rfl⟩ | rfl) | rfl)
    · rfl
    · simp [Component.same]
    · rfl
  | skp x | sknp x =>
    simp only [exec, execSkp, execSknp, h.reg]
    obtain ⟨r, hs, hu⟩ | ⟨b, s', u', hs, hu, hps, hpu, hf⟩ := h.readKey (s.reg x) <;> rw [hs, hu]
    · exact .refused r
    · exact h.ends rfl hps hpu (by rintro c rfl; exact hf)
  | ret =>
    simp only [exec, execRet]
    by_cases hsp : s.sp.val = 0
    · rw [State.pop_empty hsp, State.pop_empty (h.sp ▸ hsp)]
      exact .raiseFatal _ h.pc
    · obtain ⟨k, hk⟩ : ∃ k : Fin 16, s.sp.val = k.val + 1 := ⟨⟨s.sp.val - 1, by omega⟩, by simp only; omega⟩
      rw [State.pop_live k hk, State.pop_live k (h.sp ▸ hk)]
      exact h.ends (by rw [h.live k (by omega)]) rfl rfl (by rintro c rfl; rfl)
  | call nnn =>
    simp only [exec, execCall, h.pc]
    by_cases hsp : s.sp.val = 16
    · rw [State.push_full _ hsp, State.push_full _ (h.sp ▸ hsp)]
      exact .raiseFatal _ h.pc
    · obtain ⟨k, hk⟩ : ∃ k : Fin 16, s.sp.val = k.val := ⟨⟨s.sp.val, by omega⟩, rfl⟩
      rw [State.push_room _ k hk, State.push_room _ k (h.sp ▸ hk)]
      refine h.ends rfl rfl rfl ?_
      rintro c (⟨j, hj, rfl⟩ | rfl)
      · obtain rfl : k = j := Fin.ext (hk.symm.trans hj)
        simp [Component.same]
      · rfl

theorem keyWait_writes_alike {s u : State} (h : ReadAlike s u) (r : Reg) :
    SameOutcome (AgreeOn fun c => c = .reg r ∨ c = .waiting) (keyWait r s) (keyWait r u) := by
  simp only [keyWait, h.firstPressed]
  split
  · refine h.ends rfl rfl rfl ?_
    rintro c (rfl | rfl)
    · simp [Component.same]
    · rfl
  · refine .next ?_
    rintro c ((rfl | rfl) | rfl)
    exacts [h.reg r, h.waiting, h.pc]

/-! ## What differs after a step -/

/-- Two runs that wrote the same values where they wrote differ only where they differed before and did not write. -/
theorem Frame.after {W H : Component → Prop} {s u t t' : State} (hs : Frame W s t) (hu : Frame W u t')
    (hw : ∀ c, W c → c.same t t') (h : Frame H s u) : Frame (fun c => H c ∧ ¬ W c) t t' := by
  intro c hc
  by_cases hW : W c
  · exact hw c hW
  · have hst := Component.same_symm (hs c hW)
    exact Component.same_trans (Component.same_trans hst (h c fun hH => hc ⟨hH, hW⟩)) (hu c hW)

/-- A stack entry that an instruction makes live is one that it wrote: CALL's (R103). -/
theorem exec_live_written {i : Instr} {s t : State} {k : Fin 16} (h : exec i s = .next t)
    (hs : s.sp.val ≤ k.val) (ht : k.val < t.sp.val) : MayWrite i s (.stackEntry k) := by
  have hsp : ¬ Component.sp.same s t := fun hsame => by
    rw [show t.sp = s.sp from hsame] at ht
    omega
  rcases mayWrite_stack (exec_written h hsp (by simp)) (.inl rfl) with rfl | ⟨nnn, rfl⟩
  · obtain ⟨j, hj, rfl⟩ := execRet_eq_next h
    simp only [State.setPc_sp, State.setStack_sp, Fin.val_castSucc] at ht
    omega
  · obtain ⟨j, hj, rfl⟩ := execCall_eq_next h
    simp only [State.setPc_sp, State.setStack_sp, Fin.val_succ] at ht
    exact .inl ⟨k, by omega, rfl⟩

/-- The components of `H` that can still differ in state `t`: an entry that is live by then is not one of them. -/
def StillHidden (H : Component → Prop) (t : State) (c : Component) : Prop :=
  H c ∧ ∀ k, c = .stackEntry k → t.sp.val ≤ k.val

section
variable {s u : State} {H : Component → Prop} (hH : ∀ c, H c → Unread s.sp.val c) (h : Frame H s u)
include hH h

theorem exec_alike (i : Instr) :
    SameOutcome (fun t t' => Frame (StillHidden H t) t t') (exec i s) (exec i u) := by
  have hr : ReadAlike s u := readAlike_of_frame (h.mono hH)
  refine (exec_writes_alike hr i).mono fun t t' ht ht' hw => ?_
  have hu : Frame (fun c => MayWrite i s c ∨ c = .pc) u t' :=
    (exec_frame ht').mono fun c => Or.imp_left (hr.mayWrite i c).mp
  refine ((exec_frame ht).after hu hw h).mono ?_
  rintro c ⟨hc, hnot⟩
  refine ⟨hc, ?_⟩
  rintro k rfl
  have hdead : s.sp.val ≤ k.val := by simpa [Unread, DeadEntry] using hH _ hc
  by_contra hlive
  exact hnot (.inl (exec_live_written ht hdead (Nat.lt_of_not_le hlive)))

theorem keyWait_alike (r : Reg) :
    SameOutcome (fun t t' => Frame (StillHidden H t) t t') (keyWait r s) (keyWait r u) := by
  refine (keyWait_writes_alike (readAlike_of_frame (h.mono hH)) r).mono fun t t' ht ht' hw => ?_
  have hsp : t.sp = s.sp := keyWait_frame ht .sp (by simp)
  refine ((keyWait_frame ht).after (keyWait_frame ht') hw h).mono ?_
  rintro c ⟨hc, -⟩
  refine ⟨hc, ?_⟩
  rintro k rfl
  simpa [Unread, DeadEntry, hsp] using hH _ hc

/-- Steps from two states that differ only in what no step reads: the same outcome, and next states that differ at
most in the same components. -/
theorem step_alike : SameOutcome (fun t t' => Frame (StillHidden H t) t t') (step s) (step u) := by
  have hr : ReadAlike s u := readAlike_of_frame (h.mono hH)
  rcases step_cases s with ⟨r, hw, hs⟩ | ⟨hw, hp, hs⟩ | ⟨hw, hp, hs⟩
  · rw [hs, step_of_waiting (hr.waiting.trans hw)]
    exact keyWait_alike hH h r
  · rw [hs, step_of_trap (hr.waiting.trans hw) (hr.pc ▸ hp), hr.pc]
    exact .fault _
  · rw [hs, step_of_fetch (hr.waiting.trans hw) (hr.pc ▸ hp), hr.fetchWord]
    exact exec_alike hH h _

end

/-- Settles O25: the dead entries are among what no step reads, and an entry that became live is no longer hidden. -/
theorem deadStackEntriesAreNotRead : Obligations.DeadStackEntriesAreNotRead := by
  intro s u h
  have hsu : Frame (DeadEntry s.sp.val) s u := fun c hc =>
    h c fun k hk => Nat.lt_of_not_le fun hle => hc ⟨k, hk, hle⟩
  refine ((step_alike (fun _ hc => .inr (.inr hc)) hsu).mono fun t t' _ _ ht c hc => ht c ?_).transfer
  rintro ⟨⟨k, hk, -⟩, hle⟩
  exact Nat.not_le_of_lt (hc k hk) (hle k hk)

/-- Settles O50: the draw flag and the sound timer are among what no step reads. -/
theorem drawFlagAndSoundTimerAreNotRead : Obligations.DrawFlagAndSoundTimerAreNotRead := by
  intro s u h
  have hsu : Frame (fun c => c = .drawFlag ∨ c = .st) s u := fun c hc =>
    h c (fun hd => hc (.inl hd)) fun hst => hc (.inr hst)
  refine ((step_alike (fun _ => Or.imp_right .inl) hsu).mono fun t t' _ _ ht c hd hst => ht c ?_).transfer
  rintro ⟨hc, -⟩
  exact hc.elim hd hst

end Sys2Proof.Machine
end

section
/-! PROOFS. Data addresses, and which steps touch the memory's data (spec/20_memory.md R51, R53, R59;
spec/43_index_memory.md R143, R144). -/

namespace Sys2Proof.Machine

/-! ## Writers of memory (R51) -/

/-- An instruction that changed the memory's data is FX33 or FX55. -/
theorem exec_memory_ne {i : Instr} {s t : State} (h : exec i s = .next t) (hne : t.memory ≠ s.memory) :
    ∃ x, i = .ldB x ∨ i = .ldMemVx x := by
  by_contra hno
  obtain ⟨hB, hM⟩ : (∀ x, i ≠ .ldB x) ∧ ∀ x, i ≠ .ldMemVx x := by
    simpa only [not_exists, not_or, forall_and] using hno
  exact hne (exec_memory_eq hB hM h)

theorem keyWait_memory {r : Reg} {s t : State} (h : keyWait r s = .next t) : t.memory = s.memory := by
  rcases keyWait_eq_next h with ⟨-, rfl⟩ | ⟨k, -, rfl⟩ <;> rfl

/-- Settles O16: a key-wait phase leaves the memory's data as it is, and of the instructions only FX33 and FX55 do
not; the fetched word is the encoding of the one that ran. -/
theorem onlyBcdAndStoreWriteMemory : Obligations.OnlyBcdAndStoreWriteMemory := by
  intro s t h hne
  rcases step_eq_next h with ⟨r, -, hk⟩ | ⟨hw, -, he⟩
  · exact absurd (keyWait_memory hk) hne
  · have hword := encode_decodeWord s.fetchWord
    obtain ⟨x, hi | hi⟩ := exec_memory_ne he hne <;> rw [hi] at hword
    · exact ⟨hw, x, .inl hword.symm⟩
    · exact ⟨hw, x, .inr hword.symm⟩

/-! ## Data addresses (R53, R59) -/

/-- Settles O14: the mask is a remainder modulo 4096, which sixteen consecutive sums cannot share. -/
theorem dataAddressIsTheMaskedSum : Obligations.DataAddressIsTheMaskedSum :=
  ⟨fun s k => ⟨s.ea_eq_mod k, s.ea_lt k⟩, fun s _ _ hj hk => s.ea_inj hj hk⟩

end Sys2Proof.Machine
end

section
/-! PROOFS. The round trip between words and instructions (spec/30_encoding.md R70 to R78). -/

namespace Sys2Proof

/-! ## The instructions that are not well-formed for every field (R75, R76, R78) -/

theorem wellFormed_sys {nnn : Addr} : (Instr.sys nnn).wellFormed = true ↔ nnn ≠ 0x0E0#12 ∧ nnn ≠ 0x0EE#12 := by
  simp [Instr.wellFormed]

theorem wellFormed_nopF {x : Reg} {nn : Byte} : (Instr.nopF x nn).wellFormed = true ↔ nn ∉ fLowBytes := by
  simp [Instr.wellFormed]

theorem wellFormed_unspec5 {x y : Reg} {n : Nibble} : (Instr.unspec5 x y n).wellFormed = true ↔ n ≠ 0#4 := by
  simp [Instr.wellFormed]

theorem wellFormed_unspec9 {x y : Reg} {n : Nibble} : (Instr.unspec9 x y n).wellFormed = true ↔ n ≠ 0#4 := by
  simp [Instr.wellFormed]

theorem wellFormed_unspecE {x : Reg} {nn : Byte} : (Instr.unspecE x nn).wellFormed = true ↔ nn ∉ eLowBytes := by
  simp [Instr.wellFormed]

/-! ## Decoding answers well-formed instructions (R73, R77) -/

/-- One test of the decoder: both branches are well-formed. -/
theorem wellFormed_ite {p : Prop} [Decidable p] {i j : Instr} (hi : i.wellFormed = true)
    (hj : ¬ p → j.wellFormed = true) : (if p then i else j).wellFormed = true :=
  iteInduction (motive := (Instr.wellFormed · = true)) (fun _ => hi) hj

/-- A word of family 0 that is neither 00E0 nor 00EE has no NNN of theirs. -/
theorem wellFormed_decode0 {w : Word} (h : fieldOp w = 0x0#4) : (decode0 w).wellFormed = true := by
  refine wellFormed_ite rfl fun hcls => wellFormed_ite rfl fun hret => ?_
  rw [← wordNNN_of_op h, wordNNN_eq_cls] at hcls
  rw [← wordNNN_of_op h, wordNNN_eq_ret] at hret
  exact wellFormed_sys.mpr ⟨hcls, hret⟩

theorem wellFormed_decode5 (w : Word) : (decode5 w).wellFormed = true :=
  wellFormed_ite rfl wellFormed_unspec5.mpr

theorem wellFormed_decode8 (w : Word) : (decode8 w).wellFormed = true := by
  unfold decode8
  iterate 15 refine wellFormed_ite rfl fun _ => ?_
  rfl

theorem wellFormed_decode9 (w : Word) : (decode9 w).wellFormed = true :=
  wellFormed_ite rfl wellFormed_unspec9.mpr

theorem wellFormed_decodeE (w : Word) : (decodeE w).wellFormed = true :=
  wellFormed_ite rfl fun h9E => wellFormed_ite rfl fun hA1 => wellFormed_unspecE.mpr (by simp [eLowBytes, h9E, hA1])

/-- The last row of family F is reached past all nine low bytes. -/
theorem wellFormed_decodeF (w : Word) : (decodeF w).wellFormed = true := by
  refine wellFormed_ite rfl fun h07 => wellFormed_ite rfl fun h0A => wellFormed_ite rfl fun h15 =>
    wellFormed_ite rfl fun h18 => wellFormed_ite rfl fun h1E => wellFormed_ite rfl fun h29 =>
    wellFormed_ite rfl fun h33 => wellFormed_ite rfl fun h55 => wellFormed_ite rfl fun h65 =>
    wellFormed_nopF.mpr ?_
  simp [fLowBytes, h07, h0A, h15, h18, h1E, h29, h33, h55, h65]

theorem wellFormed_decodeWord (w : Word) : (decodeWord w).wellFormed = true :=
  iteInduction (motive := (Instr.wellFormed · = true)) wellFormed_decode0 fun _ =>
    wellFormed_ite rfl fun _ => wellFormed_ite rfl fun _ => wellFormed_ite rfl fun _ => wellFormed_ite rfl fun _ =>
    wellFormed_ite (wellFormed_decode5 w) fun _ => wellFormed_ite rfl fun _ => wellFormed_ite rfl fun _ =>
    wellFormed_ite (wellFormed_decode8 w) fun _ => wellFormed_ite (wellFormed_decode9 w) fun _ =>
    wellFormed_ite rfl fun _ => wellFormed_ite rfl fun _ => wellFormed_ite rfl fun _ => wellFormed_ite rfl fun _ =>
    wellFormed_ite (wellFormed_decodeE w) fun _ => wellFormed_decodeF w

/-- Settles O3: the decoder drops no bit, and its last branch in each family is past the rows tested before. -/
theorem encodeOfDecodeIsTheWord : Obligations.EncodeOfDecodeIsTheWord :=
  fun w => ⟨wellFormed_decodeWord w, encode_decodeWord w⟩

/-! ## Decoding the encoding (R73) -/

/-- Each field of a formatted word is the field it was made of, and well-formedness answers the tests of the rows
before. -/
theorem decodeWord_encode {i : Instr} (h : i.wellFormed = true) : decodeWord (encode i) = i := by
  cases i with
  | cls | ret => decide
  | sys nnn =>
    obtain ⟨hcls, hret⟩ := wellFormed_sys.mp h
    simp [encode, decodeWord, decode0, fieldOp_wordNNN, fieldNNN_wordNNN, wordNNN_eq_cls, wordNNN_eq_ret, hcls, hret]
  | jp | call | ldI | jpV0 => simp [encode, decodeWord, fieldOp_wordNNN, fieldNNN_wordNNN]
  | seImm | sneImm | ldImm | addImm | rnd =>
    simp [encode, decodeWord, fieldOp_wordXNN, fieldX_wordXNN, fieldNN_wordXNN]
  | drw x y n => exact decodeWord_drw x y n
  | seReg | sneReg | ldReg | orReg | andReg | xorReg | addReg | sub | shr | subn | shl | nop88 | nop89 | nop8A | nop8B
    | nop8C | nop8D | nop8F =>
    simp [encode, decodeWord, decode5, decode8, decode9, fieldOp_wordXYN, fieldX_wordXYN, fieldY_wordXYN,
      fieldN_wordXYN]
  | unspec5 x y n =>
    have hn := wellFormed_unspec5.mp h
    simp [encode, decodeWord, decode5, fieldOp_wordXYN, fieldX_wordXYN, fieldY_wordXYN, fieldN_wordXYN, hn]
  | unspec9 x y n =>
    have hn := wellFormed_unspec9.mp h
    simp [encode, decodeWord, decode9, fieldOp_wordXYN, fieldX_wordXYN, fieldY_wordXYN, fieldN_wordXYN, hn]
  | skp | sknp | ldVxDt | ldVxK | ldDtVx | ldStVx | addI | ldF | ldB | ldMemVx | ldVxMem =>
    simp [encode, decodeWord, decodeE, decodeF, fieldOp_wordXNN, fieldX_wordXNN, fieldNN_wordXNN]
  | unspecE x nn =>
    have hnn := wellFormed_unspecE.mp h
    simp_all [eLowBytes, encode, decodeWord, decodeE, fieldOp_wordXNN, fieldX_wordXNN, fieldNN_wordXNN]
  | nopF x nn =>
    have hnn := wellFormed_nopF.mp h
    simp_all [fLowBytes, encode, decodeWord, decodeF, fieldOp_wordXNN, fieldX_wordXNN, fieldNN_wordXNN]

theorem decode_encodeBytes_append {i : Instr} (h : i.wellFormed = true) (rest : List Byte) :
    decode (encodeBytes i ++ rest) = .ok (i, rest) := by
  simp [encodeBytes, decode, wordOfBytes_highByte_lowByte, decodeWord_encode h]

/-- Settles O2, by cases on the instruction. -/
theorem decodeOfEncodeIsTheInstruction : Obligations.DecodeOfEncodeIsTheInstruction :=
  fun _ h => ⟨decodeWord_encode h, decode_encodeBytes_append h⟩

/-- Settles O1: the decoder evaluates on each of the words. -/
theorem wordsOfTheSpecDecode : Obligations.WordsOfTheSpecDecode := by
  unfold Obligations.WordsOfTheSpecDecode
  decide

end Sys2Proof
end

section
/-! PROOFS. The first matching row of the opcode table (spec/30_encoding.md section 3): rows that disagree on a bit
both masks keep exclude each other, and well-formedness excludes the rows that overlap. -/

namespace Sys2Proof

/-! ## Rows that exclude each other -/

/-- Two rows that ask for different values of a bit that both masks keep. -/
def TableRow.excludes (r q : TableRow) : Bool := r.bits &&& q.mask != q.bits &&& r.mask

theorem TableRow.holds_eq_false_of_excludes {r q : TableRow} {w : Word} (h : r.excludes q = true)
    (hr : r.holds w = true) : q.holds w = false := by
  by_contra hq
  have hr : w &&& r.mask = r.bits := by simpa [TableRow.holds] using hr
  have hq : w &&& q.mask = q.bits := by simpa [TableRow.holds] using hq
  refine (bne_iff_ne.mp h) ?_
  rw [← hr, ← hq, BitVec.and_assoc, BitVec.and_assoc, BitVec.and_comm r.mask]

/-- The rows before row `k` that some word may match together with row `k`. -/
def overlappedRows (k : Nat) : List TableRow :=
  (opcodeTable.take k).filter fun q => opcodeTable[k]?.any fun r => !r.excludes q

/-- A row is the first to match as soon as it matches and no overlapped row does. -/
theorem findIdx?_opcodeTable {k : Nat} {r : TableRow} {w : Word} (hk : opcodeTable[k]? = some r)
    (hr : r.holds w = true) (hover : ∀ q ∈ overlappedRows k, q.holds w = false) :
    opcodeTable.findIdx? (fun r => r.holds w) = some k := by
  obtain ⟨hlt, rfl⟩ := List.getElem?_eq_some_iff.mp hk
  refine List.findIdx?_eq_some_iff_getElem.mpr ⟨hlt, hr, fun j hj => ?_⟩
  cases he : opcodeTable[k].excludes opcodeTable[j] with
  | true => simp [TableRow.holds_eq_false_of_excludes he hr]
  | false =>
    have hmem : opcodeTable[j] ∈ overlappedRows k :=
      List.mem_filter.mpr ⟨List.mem_take_iff_getElem.mpr ⟨j, by omega, rfl⟩, by simp [hk, he]⟩
    simp [hover _ hmem]

/-! ## The rows that overlap (R75, R76, R78) -/

/-- Only SYS, the F-family no-op and the unspecified rows overlap a row before them. -/
theorem overlappedRows_eq_nil : ∀ k < 42, k ≠ 2 → overlappedRows k = [] := by decide

theorem overlappedRows_sys : overlappedRows 2 = [⟨0x00E0, 0xFFFF⟩, ⟨0x00EE, 0xFFFF⟩] := by decide

theorem overlappedRows_nopF : overlappedRows 42 = fLowBytes.map fun nn => ⟨wordXNN 0xF 0 nn, 0xF0FF⟩ := by decide

theorem overlappedRows_unspec5 : overlappedRows 43 = [⟨0x5000, 0xF00F⟩] := by decide

theorem overlappedRows_unspec9 : overlappedRows 44 = [⟨0x9000, 0xF00F⟩] := by decide

theorem overlappedRows_unspecE : overlappedRows 45 = eLowBytes.map fun nn => ⟨wordXNN 0xE 0 nn, 0xF0FF⟩ := by decide

/-- The table's fourth mask keeps the whole word. -/
theorem and_FFFF (w : Word) : w &&& 0xFFFF#16 = w := BitVec.and_allOnes

theorem holds_wordXYN_eq_false {op x y n f : BitVec 4} (h : n ≠ f) :
    TableRow.holds ⟨wordXYN op 0 0 f, 0xF00F#16⟩ (wordXYN op x y n) = false := by
  refine beq_eq_false_iff_ne.mpr fun hq => h ?_
  simpa only [and_F00F, fieldN_wordXYN] using congrArg fieldN hq

theorem holds_wordXNN_eq_false {op : Nibble} {x : Reg} {nn ff : Byte} (h : nn ≠ ff) :
    TableRow.holds ⟨wordXNN op 0 ff, 0xF0FF#16⟩ (wordXNN op x nn) = false := by
  refine beq_eq_false_iff_ne.mpr fun hq => h ?_
  simpa only [and_F0FF, fieldNN_wordXNN] using congrArg fieldNN hq

/-- A low byte outside the list matches none of the list's rows. -/
theorem forall_holds_wordXNN_eq_false {op : Nibble} {x : Reg} {nn : Byte} {l : List Byte} (h : nn ∉ l) :
    ∀ q ∈ l.map fun ff => (⟨wordXNN op 0 ff, 0xF0FF⟩ : TableRow), q.holds (wordXNN op x nn) = false :=
  List.forall_mem_map.mpr fun _ hff => holds_wordXNN_eq_false fun hnn => h (hnn ▸ hff)

theorem overlappedRows_holds_eq_false {i : Instr} (h : i.wellFormed = true) :
    ∀ q ∈ overlappedRows i.tableIndex, q.holds (encode i) = false := by
  cases i with
  | sys nnn =>
    obtain ⟨hcls, hret⟩ := wellFormed_sys.mp h
    simp [Instr.tableIndex, overlappedRows_sys, TableRow.holds, encode, and_FFFF, wordNNN_eq_cls, wordNNN_eq_ret,
      hcls, hret]
  | nopF x nn =>
    exact overlappedRows_nopF ▸ forall_holds_wordXNN_eq_false (wellFormed_nopF.mp h)
  | unspec5 x y n =>
    exact overlappedRows_unspec5 ▸
      List.forall_mem_singleton.mpr (holds_wordXYN_eq_false (op := 0x5) (wellFormed_unspec5.mp h))
  | unspec9 x y n =>
    exact overlappedRows_unspec9 ▸
      List.forall_mem_singleton.mpr (holds_wordXYN_eq_false (op := 0x9) (wellFormed_unspec9.mp h))
  | unspecE x nn =>
    exact overlappedRows_unspecE ▸ forall_holds_wordXNN_eq_false (wellFormed_unspecE.mp h)
  | _ => simp [Instr.tableIndex, overlappedRows_eq_nil]

/-! ## The row of an instruction -/

/-- Every instruction's encoding matches its own row. -/
theorem Laws.rowHolds : (i : Instr) → RowHolds.Statement i
  | .cls => RowHolds.cls
  | .ret => RowHolds.ret
  | .sys nnn => RowHolds.sys nnn
  | .jp nnn => RowHolds.jp nnn
  | .call nnn => RowHolds.call nnn
  | .seImm x nn => RowHolds.seImm x nn
  | .sneImm x nn => RowHolds.sneImm x nn
  | .seReg x y => RowHolds.seReg x y
  | .ldImm x nn => RowHolds.ldImm x nn
  | .addImm x nn => RowHolds.addImm x nn
  | .ldReg x y => RowHolds.ldReg x y
  | .orReg x y => RowHolds.orReg x y
  | .andReg x y => RowHolds.andReg x y
  | .xorReg x y => RowHolds.xorReg x y
  | .addReg x y => RowHolds.addReg x y
  | .sub x y => RowHolds.sub x y
  | .shr x y => RowHolds.shr x y
  | .subn x y => RowHolds.subn x y
  | .shl x y => RowHolds.shl x y
  | .sneReg x y => RowHolds.sneReg x y
  | .ldI nnn => RowHolds.ldI nnn
  | .jpV0 nnn => RowHolds.jpV0 nnn
  | .rnd x nn => RowHolds.rnd x nn
  | .drw x y n => RowHolds.drw x y n
  | .skp x => RowHolds.skp x
  | .sknp x => RowHolds.sknp x
  | .ldVxDt x => RowHolds.ldVxDt x
  | .ldVxK x => RowHolds.ldVxK x
  | .ldDtVx x => RowHolds.ldDtVx x
  | .ldStVx x => RowHolds.ldStVx x
  | .addI x => RowHolds.addI x
  | .ldF x => RowHolds.ldF x
  | .ldB x => RowHolds.ldB x
  | .ldMemVx x => RowHolds.ldMemVx x
  | .ldVxMem x => RowHolds.ldVxMem x
  | .nop88 x y => RowHolds.nop88 x y
  | .nop89 x y => RowHolds.nop89 x y
  | .nop8A x y => RowHolds.nop8A x y
  | .nop8B x y => RowHolds.nop8B x y
  | .nop8C x y => RowHolds.nop8C x y
  | .nop8D x y => RowHolds.nop8D x y
  | .nop8F x y => RowHolds.nop8F x y
  | .nopF x nn => RowHolds.nopF x nn
  | .unspec5 x y n => RowHolds.unspec5 x y n
  | .unspec9 x y n => RowHolds.unspec9 x y n
  | .unspecE x nn => RowHolds.unspecE x nn

theorem findIdx?_opcodeTable_encode {i : Instr} (h : i.wellFormed = true) :
    opcodeTable.findIdx? (fun r => r.holds (encode i)) = some i.tableIndex := by
  obtain ⟨r, hr, hholds⟩ := Laws.rowHolds i
  exact findIdx?_opcodeTable hr hholds (overlappedRows_holds_eq_false h)

/-- Settles O4: a word is the encoding of the instruction it decodes to, which matches its own row and no row
before. -/
theorem decoderTakesTheFirstMatchingRow : Obligations.DecoderTakesTheFirstMatchingRow := fun w => by
  simpa only [encode_decodeWord] using findIdx?_opcodeTable_encode (wellFormed_decodeWord w)

end Sys2Proof
end

section
/-! PROOFS. The no-op words of families 8 and F and the words the source gives no meaning (spec/30_encoding.md R74, R75,
R76). -/

namespace Sys2Proof.Machine

/-- The end of an instruction that wrote nothing: `pc` advances by 2 and nothing else changes (R95). -/
theorem complete_next_advances (s : State) :
    ∃ t, complete .next s = .next t ∧ t.pc = s.pc + 2#16 ∧ Frame (fun c => c = .pc) s t :=
  ⟨_, rfl, rfl, s.frame_setPc _⟩

theorem exec_noOp {x y : Reg} {nn : Byte} {i : Instr}
    (hi : i ∈ [.nop88 x y, .nop89 x y, .nop8A x y, .nop8B x y, .nop8C x y, .nop8D x y, .nop8F x y, .nopF x nn])
    (s : State) : exec i s = complete .next s := by
  simp only [List.mem_cons, List.not_mem_nil, or_false] at hi
  rcases hi with rfl | rfl | rfl | rfl | rfl | rfl | rfl | rfl <;> rfl

theorem exec_unspecified {x y : Reg} {n : Nibble} {nn : Byte} {i : Instr}
    (hi : i ∈ [.unspec5 x y n, .unspec9 x y n, .unspecE x nn]) (s : State) : exec i s = unspecified s := by
  simp only [List.mem_cons, List.not_mem_nil, or_false] at hi
  rcases hi with rfl | rfl | rfl <;> rfl

/-- Settles O51: each word is the encoding of its no-op, and each no-op only ends the instruction. -/
theorem noOpWordsOnlyAdvance : Obligations.NoOpWordsOnlyAdvance := by
  refine ⟨fun x y => ?_, fun x nn hnn => ?_, fun x y nn i s hi => ?_⟩
  · exact ⟨decodeWord_encode (i := .nop88 x y) rfl, decodeWord_encode (i := .nop89 x y) rfl,
      decodeWord_encode (i := .nop8A x y) rfl, decodeWord_encode (i := .nop8B x y) rfl,
      decodeWord_encode (i := .nop8C x y) rfl, decodeWord_encode (i := .nop8D x y) rfl,
      decodeWord_encode (i := .nop8F x y) rfl⟩
  · exact decodeWord_encode (i := .nopF x nn) (wellFormed_nopF.mpr hnn)
  · exact exec_noOp hi s ▸ complete_next_advances s

/-- Settles O52: each word is the encoding of its instruction, which does what the parameter says. -/
theorem unspecifiedWordsFollowTheParameter : Obligations.UnspecifiedWordsFollowTheParameter := by
  refine ⟨fun x y n hn => ⟨?_, ?_⟩, fun x nn h9E hA1 => ?_, fun x y n nn i s hi => ?_⟩
  · exact decodeWord_encode (i := .unspec5 x y n) (wellFormed_unspec5.mpr hn)
  · exact decodeWord_encode (i := .unspec9 x y n) (wellFormed_unspec9.mpr hn)
  · exact decodeWord_encode (i := .unspecE x nn) (wellFormed_unspecE.mpr (by simp [eLowBytes, h9E, hA1]))
  · rw [exec_unspecified hi]
    exact ⟨fun hnop => unspecified_of_nop hnop ▸ complete_next_advances s, unspecified_of_refuse⟩

end Sys2Proof.Machine
end

section
/-! PROOFS. The phases of a step (spec/40_cycle.md R90 to R95, R98): the key-wait, the fetched word, the refusals and
the program counter. -/

namespace Sys2Proof.Machine

/-! ## The fetched word (R52, R92) -/

theorem decode_bytes_at_pc (s : State) :
    decode [s.readByte s.pc.toNat, s.readByte (s.pc.toNat + 1)] = .ok (decodeWord s.fetchWord, []) := rfl

theorem State.fetchWord_eq_of_bytes {s : State} {w : Word} (hhi : s.readByte s.pc.toNat = highByte w)
    (hlo : s.readByte (s.pc.toNat + 1) = lowByte w) : s.fetchWord = w := by
  rw [State.fetchWord, hhi, hlo, wordOfBytes_highByte_lowByte]

theorem State.fetchWord_eq_ofNat (s : State) : s.fetchWord = BitVec.ofNat 16
    ((s.readByte s.pc.toNat).toNat * 256 + (s.readByte (s.pc.toNat + 1)).toNat) := by
  rw [State.fetchWord, ← wordOfBytes_toNat, BitVec.ofNat_toNat, BitVec.setWidth_eq]

theorem decodeWord_eq_iff {w : Word} {i : Instr} (h : i.wellFormed = true) : decodeWord w = i ↔ w = encode i :=
  ⟨fun hw => hw ▸ (encode_decodeWord w).symm, fun hw => hw ▸ decodeWord_encode h⟩

/-- Settles O5: the two bytes at `pc` are those of the fetched word, which decodes to the instruction it encodes. -/
theorem stepRunsTheDecodedInstruction : Obligations.StepRunsTheDecodedInstruction := by
  refine ⟨fun s i rest hw hp hd => ?_, fun s i hw hp hi hhi hlo => ?_⟩
  · rw [decode_bytes_at_pc] at hd
    cases hd
    exact step_of_fetch hw hp
  · rw [step_of_fetch hw hp, State.fetchWord_eq_of_bytes hhi hlo, decodeWord_encode hi]

/-- Settles O6: the two cases of the fetch. -/
theorem fetchReadsTheWordOrTraps : Obligations.FetchReadsTheWordOrTraps := fun s hw =>
  ⟨step_of_trap hw, fun hp => s.fetchWord_eq_ofNat ▸ step_of_fetch hw hp⟩

/-! ## The key-wait phase (R91) -/

theorem State.firstPressed_eq_none {s : State} (h : ∀ k : Fin 16, s.keypad[k] = false) : s.firstPressed = none := by
  refine List.findIdx?_eq_none_iff.mpr fun b hb => ?_
  obtain ⟨k, hk, rfl⟩ := Vector.mem_iff_getElem.mp (Vector.mem_toList_iff.mp hb)
  exact h ⟨k, hk⟩

theorem State.firstPressed_eq_some {s : State} {k : Fin 16} (hk : s.keypad[k] = true)
    (hleast : ∀ j : Fin 16, j < k → s.keypad[j] = false) : s.firstPressed = some k.val := by
  refine List.findIdx?_eq_some_iff_getElem.mpr ⟨by simp, hk, fun j hj => ?_⟩
  simpa using hleast ⟨j, hj.trans k.isLt⟩ hj

theorem keyWait_of_none {r : Reg} {s : State} (h : s.firstPressed = none) : keyWait r s = .next s := by
  simp only [keyWait, h]

theorem keyWait_of_some {r : Reg} {s : State} {k : Nat} (h : s.firstPressed = some k) :
    keyWait r s = complete .next ((s.setReg r (BitVec.ofNat 8 k)).setWaiting none) := by
  simp only [keyWait, h]

/-- Settles O7: the least pressed key decides which of the two things a key-wait phase does. -/
theorem keyWaitTakesTheLeastPressedKey : Obligations.KeyWaitTakesTheLeastPressedKey := by
  intro s r hw
  rw [step_of_waiting hw]
  refine ⟨fun hnone => ?_, fun k hk hleast => ?_⟩
  · have hfirst := State.firstPressed_eq_none hnone
    exact ⟨⟨by simp [hw], hfirst⟩, keyWait_of_none hfirst⟩
  · have hfirst := State.firstPressed_eq_some hk hleast
    have hnext := keyWait_of_some (r := r) hfirst
    refine ⟨by simp [Blocked, hfirst], _, hnext, by simp, rfl, rfl, ?_⟩
    exact (keyWait_frame hnext).mono fun _ => or_assoc.mp

/-! ## Refusals (R76, R98, R170) -/

theorem unspecified_eq_refused {s : State} {r : Refusal} :
    unspecified s = .refused r ↔ s.config.unspecEncoding = .refuse ∧ r = .unspecifiedEncoding s.pc := by
  cases hc : s.config.unspecEncoding with
  | refuse => simp [unspecified_of_refuse hc, eq_comm]
  | nop => simp [unspecified_of_nop hc, complete_ne_refused]

theorem State.readKey_eq_error {s : State} {v : Byte} {r : Refusal} : s.readKey v = .error r ↔
    15 < v.toNat ∧ s.config.keyIndexPolicy = .refuse ∧ r = .keyIndexOutOfRange s.pc := by
  rcases s.readKey_cases v with ⟨hv, hc, hk⟩ | ⟨_, hc, hk⟩ | ⟨_, hc, hk⟩ | ⟨hin | hc, hk⟩
  · simp [hk, hv, hc, eq_comm]
  · simp [hk, hc]
  · simp [hk, hc]
  · simp [hk, Nat.not_lt.mpr hin]
  · simp [hk, hc]

theorem execRet_ne_refused {s : State} {r : Refusal} : execRet s ≠ .refused r := by
  unfold execRet
  cases s.pop with
  | none => simp [raiseFatal]
  | some p => exact complete_ne_refused

theorem execCall_ne_refused {nnn : Addr} {s : State} {r : Refusal} : execCall nnn s ≠ .refused r := by
  unfold execCall
  cases s.push (s.pc + 2#16) with
  | none => simp [raiseFatal]
  | some s' => exact complete_ne_refused

/-- A key skip is refused exactly when its key read is. -/
theorem exec_keySkip_eq_refused {x : Reg} {i : Instr} {s : State} {r : Refusal} (hi : i = .skp x ∨ i = .sknp x) :
    exec i s = .refused r ↔ s.readKey (s.reg x) = .error r := by
  rcases hi with rfl | rfl <;> simp only [exec, execSkp, execSknp]
  all_goals
    cases s.readKey (s.reg x) with
    | error q => simp
    | ok p => simp [complete_ne_refused]

/-- Only the unspecified rows and the key skips can be refused. -/
theorem exec_eq_refused {i : Instr} {s : State} {r : Refusal} : exec i s = .refused r ↔
    ((∃ x y n nn, i ∈ [.unspec5 x y n, .unspec9 x y n, .unspecE x nn]) ∧ unspecified s = .refused r) ∨
    ∃ x, (i = .skp x ∨ i = .sknp x) ∧ s.readKey (s.reg x) = .error r := by
  constructor
  · intro h
    cases i with
    | unspec5 x y n => exact .inl ⟨⟨x, y, n, 0, by simp⟩, h⟩
    | unspec9 x y n => exact .inl ⟨⟨x, y, n, 0, by simp⟩, h⟩
    | unspecE x nn => exact .inl ⟨⟨x, 0, 0, nn, by simp⟩, h⟩
    | skp x => exact .inr ⟨x, .inl rfl, (exec_keySkip_eq_refused (.inl rfl)).mp h⟩
    | sknp x => exact .inr ⟨x, .inr rfl, (exec_keySkip_eq_refused (.inr rfl)).mp h⟩
    | ret => exact absurd h execRet_ne_refused
    | call => exact absurd h execCall_ne_refused
    | _ => exact absurd h complete_ne_refused
  · rintro (⟨⟨x, y, n, nn, hi⟩, h⟩ | ⟨x, hi, h⟩)
    · exact exec_unspecified hi s ▸ h
    · exact (exec_keySkip_eq_refused hi).mpr h

/-- A word has no meaning in the source when it decodes to one of the unspecified rows. -/
theorem meaninglessWord_iff {w : Word} : MeaninglessWord w ↔
    ∃ x y n nn, decodeWord w ∈ [.unspec5 x y n, .unspec9 x y n, .unspecE x nn] := by
  constructor
  · rintro (⟨x, y, n, hn, rfl | rfl⟩ | ⟨x, nn, h9E, hA1, rfl⟩)
    · have hd : decodeWord (wordXYN 0x5#4 x y n) = .unspec5 x y n :=
        decodeWord_encode (i := .unspec5 x y n) (wellFormed_unspec5.mpr hn)
      exact ⟨x, y, n, 0, by simp [hd]⟩
    · have hd : decodeWord (wordXYN 0x9#4 x y n) = .unspec9 x y n :=
        decodeWord_encode (i := .unspec9 x y n) (wellFormed_unspec9.mpr hn)
      exact ⟨x, y, n, 0, by simp [hd]⟩
    · have hnn : nn ∉ eLowBytes := by simp [eLowBytes, h9E, hA1]
      have hd : decodeWord (wordXNN 0xE#4 x nn) = .unspecE x nn :=
        decodeWord_encode (i := .unspecE x nn) (wellFormed_unspecE.mpr hnn)
      exact ⟨x, 0, 0, nn, by simp [hd]⟩
  · rintro ⟨x, y, n, nn, hi⟩
    have hwf := wellFormed_decodeWord w
    have hword := encode_decodeWord w
    simp only [List.mem_cons, List.not_mem_nil, or_false] at hi
    rcases hi with hi | hi | hi <;> rw [hi] at hwf hword
    · exact .inl ⟨x, y, n, wellFormed_unspec5.mp hwf, .inl hword.symm⟩
    · exact .inl ⟨x, y, n, wellFormed_unspec9.mp hwf, .inr hword.symm⟩
    · obtain ⟨h9E, hA1⟩ : nn ≠ 0x9E#8 ∧ nn ≠ 0xA1#8 := by simpa [eLowBytes] using wellFormed_unspecE.mp hwf
      exact .inr ⟨x, nn, h9E, hA1, hword.symm⟩

theorem step_eq_refused {s : State} {r : Refusal} : step s = .refused r ↔
    s.waiting = none ∧ s.pc.toNat ≤ 0xFFE ∧ exec (decodeWord s.fetchWord) s = .refused r := by
  rcases step_cases s with ⟨q, hw, hs⟩ | ⟨hw, hp, hs⟩ | ⟨hw, hp, hs⟩
  · simp [hs, hw, keyWait_ne_refused]
  · simp [hs, Nat.not_le.mpr hp]
  · simp [hs, hw, hp]

/-- Settles O9: of all instructions only the unspecified rows and the key skips answer a refusal, each under its own
parameter. -/
theorem stepRefusesExactlyInTwoCases : Obligations.StepRefusesExactlyInTwoCases := by
  intro s r
  have hskp (x : Reg) := decodeWord_eq_iff (w := s.fetchWord) (i := .skp x) rfl
  have hsknp (x : Reg) := decodeWord_eq_iff (w := s.fetchWord) (i := .sknp x) rfl
  rw [step_eq_refused, exec_eq_refused, ← meaninglessWord_iff, unspecified_eq_refused]
  simp only [hskp, hsknp, State.readKey_eq_error]
  rfl

/-! ## The program counter (R95) -/

theorem newPc_skip_of_ne {pc : Word} {taken : Bool} (h : Effect.newPc pc (.skip taken) ≠ pc + 2#16) :
    Effect.newPc pc (.skip taken) = pc + 4#16 := by
  cases taken with
  | true => rfl
  | false => exact absurd rfl h

/-- A key skip moves `pc` as any skip does, whatever its key read answered (R171, R172). -/
theorem exec_keySkip_pc {x : Reg} {i : Instr} {s t : State} (hi : i = .skp x ∨ i = .sknp x)
    (h : exec i s = .next t) : ∃ taken, t.pc = Effect.newPc s.pc (.skip taken) := by
  rcases hi with rfl | rfl
  · obtain ⟨taken, rfl | rfl⟩ := execSkp_eq_next h <;> exact ⟨taken, rfl⟩
  · obtain ⟨taken, rfl | rfl⟩ := execSknp_eq_next h <;> exact ⟨taken, rfl⟩

/-- The sum of BNNN fits in 16 bits (R108). -/
theorem jpV0_target_toNat (nnn : Addr) (v : Byte) :
    (nnn.setWidth 16 + v.setWidth 16 : Word).toNat = nnn.toNat + v.toNat := by
  bv_omega

/-- A step that does not wait ran the instruction that the fetched word encodes. -/
theorem step_exec {s t : State} (hw : s.waiting = none) (h : step s = .next t) :
    ∃ i, s.fetchWord = encode i ∧ exec i s = .next t := by
  rcases step_eq_next h with ⟨r, hr, -⟩ | ⟨-, -, he⟩
  · simp [hw] at hr
  · exact ⟨_, (encode_decodeWord _).symm, he⟩

/-- Settles O10: the effect each instruction ends with, by cases on the instruction that the fetched word encodes. -/
theorem programCounterMovesByTwoUnlessNamed : Obligations.ProgramCounterMovesByTwoUnlessNamed := by
  intro s t hw h hne
  obtain ⟨i, hi, he⟩ := step_exec hw h
  have skipped {taken : Bool} (hpc : t.pc = Effect.newPc s.pc (.skip taken)) : t.pc = s.pc + 4#16 :=
    hpc.trans (newPc_skip_of_ne (hpc ▸ hne))
  cases i with
  | ret => exact .inl hi
  | sys nnn => exact .inr (.inl ⟨nnn, .inl hi, complete_pc he ▸ BitVec.toNat_setWidth_of_le (by omega)⟩)
  | jp nnn => exact .inr (.inl ⟨nnn, .inr (.inl hi), complete_pc he ▸ BitVec.toNat_setWidth_of_le (by omega)⟩)
  | call nnn =>
    obtain ⟨k, -, rfl⟩ := execCall_eq_next he
    exact .inr (.inl ⟨nnn, .inr (.inr hi), BitVec.toNat_setWidth_of_le (by omega)⟩)
  | jpV0 nnn => exact .inr (.inr (.inl ⟨nnn, hi, complete_pc he ▸ jpV0_target_toNat nnn _⟩))
  | ldVxK x => exact .inr (.inr (.inr (.inl ⟨x, hi, complete_pc he⟩)))
  | seImm x nn => exact .inr (.inr (.inr (.inr ⟨skipped (complete_pc he), .inl ⟨x, nn, .inl hi⟩⟩)))
  | sneImm x nn => exact .inr (.inr (.inr (.inr ⟨skipped (complete_pc he), .inl ⟨x, nn, .inr hi⟩⟩)))
  | seReg x y => exact .inr (.inr (.inr (.inr ⟨skipped (complete_pc he), .inr (.inl ⟨x, y, .inl hi⟩)⟩)))
  | sneReg x y => exact .inr (.inr (.inr (.inr ⟨skipped (complete_pc he), .inr (.inl ⟨x, y, .inr hi⟩)⟩)))
  | skp x =>
    obtain ⟨_, hpc⟩ := exec_keySkip_pc (.inl rfl) he
    exact .inr (.inr (.inr (.inr ⟨skipped hpc, .inr (.inr ⟨x, .inl hi⟩)⟩)))
  | sknp x =>
    obtain ⟨_, hpc⟩ := exec_keySkip_pc (.inr rfl) he
    exact .inr (.inr (.inr (.inr ⟨skipped hpc, .inr (.inr ⟨x, .inr hi⟩)⟩)))
  | unspec5 | unspec9 | unspecE =>
    obtain ⟨-, rfl⟩ := unspecified_eq_next he
    exact absurd rfl hne
  | addReg | sub | shr | subn | shl =>
    exact absurd ((complete_pc he).trans (congrArg (· + 2#16) (State.writeFlagAndResult_pc _ _ _ _))) hne
  | _ => exact absurd (complete_pc he) hne

end Sys2Proof.Machine
end

section
/-! PROOFS. Control transfer and skips (spec/41_control.md R100 to R108): the words of these instructions, and the
next state of each. -/

namespace Sys2Proof.Machine

/-! ## The words (R73, R78) -/

/-- A word decodes to an instruction exactly when it is the encoding of that instruction and some word is. -/
theorem decodeWord_eq_iff_wellFormed_and_encode {w : Word} {i : Instr} :
    decodeWord w = i ↔ i.wellFormed = true ∧ w = encode i := by
  constructor
  · rintro rfl
    exact ⟨wellFormed_decodeWord w, (encode_decodeWord w).symm⟩
  · rintro ⟨h, rfl⟩
    exact decodeWord_encode h

/-- 0NNN is SYS for every NNN but those of 00E0 and 00EE (R78). -/
theorem decodeWord_eq_sys_iff {w : Word} {nnn : Addr} :
    decodeWord w = .sys nnn ↔ w = wordNNN 0x0 nnn ∧ w ≠ 0x00E0#16 ∧ w ≠ 0x00EE#16 := by
  rw [decodeWord_eq_iff_wellFormed_and_encode, wellFormed_sys, and_comm]
  refine and_congr_right ?_
  rintro rfl
  exact (and_congr (wordNNN_eq_cls nnn).not (wordNNN_eq_ret nnn).not).symm

/-! ## The end of an instruction that only moves `pc` (R95) -/

theorem complete_moves_pc (e : Effect) (s : State) :
    ∃ t, complete e s = .next t ∧ t.pc = e.newPc s.pc ∧ Frame (fun c => c = .pc) s t :=
  ⟨_, rfl, rfl, s.frame_setPc _⟩

theorem complete_jump_addr (nnn : Addr) (s : State) :
    ∃ t, complete (.jump (nnn.setWidth 16)) s = .next t ∧ t.pc.toNat = nnn.toNat ∧ Frame (fun c => c = .pc) s t := by
  obtain ⟨t, ht, hpc, hframe⟩ := complete_moves_pc (.jump (nnn.setWidth 16)) s
  exact ⟨t, ht, hpc ▸ BitVec.toNat_setWidth_of_le (by omega), hframe⟩

/-- A skip on equality: 4 when the bytes agree (R104, R106). -/
theorem newPc_skip_beq (pc : Word) (a b : Byte) :
    Effect.newPc pc (.skip (a == b)) = pc + (if a = b then 4#16 else 2#16) := by
  by_cases h : a = b <;> simp [Effect.newPc, h]

/-- A skip on inequality: 4 when the bytes differ (R105, R107). -/
theorem newPc_skip_bne (pc : Word) (a b : Byte) :
    Effect.newPc pc (.skip (a != b)) = pc + (if a = b then 2#16 else 4#16) := by
  by_cases h : a = b <;> simp [Effect.newPc, h]

/-! ## RET and CALL (R100, R103) -/

theorem execRet_of_empty {s : State} (h : s.sp.val = 0) : execRet s = .fault (.stackUnderflow s.pc) := by
  simp only [execRet, State.pop_empty h, raiseFatal]

/-- RET with entries live goes to the topmost of them and writes no entry. -/
theorem execRet_of_live {s : State} (k : Fin 16) (h : s.sp.val = k.val + 1) :
    ∃ t, execRet s = .next t ∧ t.sp = k.castSucc ∧ t.pc = s.stack[k] ∧ Frame (fun c => c = .sp ∨ c = .pc) s t := by
  simp only [execRet, State.pop_live k h]
  exact ⟨_, rfl, rfl, rfl, (s.frame_setSp _).then (State.frame_setPc _ _)⟩

theorem execCall_of_full {nnn : Addr} {s : State} (h : s.sp.val = 16) :
    execCall nnn s = .fault (.stackOverflow s.pc) := by
  simp only [execCall, State.push_full _ h, raiseFatal]

theorem execCall_of_room {s : State} (nnn : Addr) (k : Fin 16) (h : s.sp.val = k.val) :
    execCall nnn s = .next ((s.setStack (s.stack.set k.val (s.pc + 2#16)) k.succ).setPc (nnn.setWidth 16)) := by
  simp only [execCall, State.push_room _ k h]
  rfl

/-- Settles O20: the CALL stored its return address at the entry that the RET reads. -/
theorem returnUndoesCall : Obligations.ReturnUndoesCall := by
  intro nnn s t u hcall hsp hstack
  obtain ⟨k, hk, rfl⟩ := execCall_eq_next hcall
  have hlive : u.sp.val = k.val + 1 := by rw [hsp]; rfl
  have hentry : u.stack[k] = s.pc + 2#16 := by rw [hstack]; exact Vector.getElem_set_self k.isLt
  obtain ⟨v, hret, hvsp, hvpc, hframe⟩ := execRet_of_live k hlive
  exact ⟨v, hret, hvpc.trans hentry, hvsp.trans (Fin.ext hk.symm), hframe⟩

/-- Settles O17: RET by whether an entry is live. -/
theorem returnPopsOrUnderflows : Obligations.ReturnPopsOrUnderflows := by
  refine ⟨fun _ => decodeWord_eq_iff rfl, fun _ => execRet_of_empty, fun s k h => ?_⟩
  obtain ⟨t, ht, hsp, hpc, hframe⟩ := execRet_of_live k h
  exact ⟨t, ht, congrArg Fin.val hsp, hpc, hframe⟩

/-- Settles O19: CALL by whether an entry is free. -/
theorem callPushesOrOverflows : Obligations.CallPushesOrOverflows := by
  refine ⟨fun _ _ => decodeWord_eq_iff rfl, fun _ _ => execCall_of_full, fun nnn s k h => ?_⟩
  refine ⟨_, execCall_of_room nnn k h, Vector.getElem_set_self k.isLt, rfl,
    BitVec.toNat_setWidth_of_le (by omega), ?_⟩
  exact ((s.frame_pushAt k _ _).then (State.frame_setPc _ _)).mono fun _ => or_assoc.mp

/-! ## Jumps (R101, R102, R108) -/

/-- Settles O18: SYS and JP end in the same jump and write nothing before it. -/
theorem sysAndJumpSetThePc : Obligations.SysAndJumpSetThePc :=
  ⟨fun _ _ => decodeWord_eq_sys_iff, fun _ _ => decodeWord_eq_iff rfl, complete_jump_addr,
    complete_jump_addr⟩

/-- Settles O23: the sum fits in 16 bits. -/
theorem jumpWithOffsetAddsV0 : Obligations.JumpWithOffsetAddsV0 := by
  refine ⟨fun _ _ => decodeWord_eq_iff rfl, fun nnn s => ?_⟩
  obtain ⟨t, ht, hpc, hframe⟩ := complete_moves_pc (.jump (nnn.setWidth 16 + (s.reg .v0).setWidth 16)) s
  exact ⟨t, ht, hpc ▸ jpV0_target_toNat nnn _, hframe⟩

/-! ## Skips (R104 to R107) -/

/-- Settles O21: each skip moves `pc` by its comparison of Vx with NN. -/
theorem skipOnImmediate : Obligations.SkipOnImmediate := by
  refine ⟨fun _ _ _ => decodeWord_eq_iff rfl, fun _ _ _ => decodeWord_eq_iff rfl, fun x nn s => ?_, fun x nn s => ?_⟩
  · exact newPc_skip_beq s.pc (s.reg x) nn ▸ complete_moves_pc _ s
  · exact newPc_skip_bne s.pc (s.reg x) nn ▸ complete_moves_pc _ s

/-- Settles O22: each skip moves `pc` by its comparison of Vx with Vy. -/
theorem skipOnRegisters : Obligations.SkipOnRegisters := by
  refine ⟨fun _ _ _ => decodeWord_eq_iff rfl, fun _ _ _ => decodeWord_eq_iff rfl, fun x y s => ?_, fun x y s => ?_⟩
  · exact newPc_skip_beq s.pc (s.reg x) (s.reg y) ▸ complete_moves_pc _ s
  · exact newPc_skip_bne s.pc (s.reg x) (s.reg y) ▸ complete_moves_pc _ s

end Sys2Proof.Machine
end

section
/-! PROOFS. Register arithmetic and logic (spec/42_alu.md R120 to R134): the flags as numbers, what a register write
and a flag write leave behind, and the next state of each instruction of the family. -/

namespace Sys2Proof.Machine

/-! ## Flags and results as numbers (R120) -/

theorem carry_eq (a b : Byte) : carry a b = if 255 < a.toNat + b.toNat then 1#8 else 0#8 := by
  simp only [carry, Byte.ofBool, decide_eq_true_eq]

theorem notBorrow_eq (a b : Byte) : notBorrow a b = if a.toNat < b.toNat then 0#8 else 1#8 := by
  by_cases h : a.toNat < b.toNat <;> simp [notBorrow, Byte.ofBool, h]

theorem bitShiftedRight_eq (a : Byte) : bitShiftedRight a = BitVec.ofNat 8 (a.toNat % 2) := by
  apply BitVec.eq_of_toNat_eq
  rw [bitShiftedRight, BitVec.toNat_and, BitVec.toNat_ofNat, BitVec.toNat_ofNat, Nat.and_one_is_mod]
  omega

/-- After a shift by seven only the top bit is left, so the mask drops nothing. -/
theorem bitShiftedLeft_eq (a : Byte) : bitShiftedLeft a = BitVec.ofNat 8 (a.toNat / 128) := by
  have htop : (a >>> 7).toNat = a.toNat / 128 := by rw [BitVec.toNat_ushiftRight, Nat.shiftRight_eq_div_pow]
  rw [show bitShiftedLeft a = bitShiftedRight (a >>> 7) from rfl, bitShiftedRight_eq, htop,
    Nat.mod_eq_of_lt (by omega)]

theorem shiftRight_one_eq_ofNat (a : Byte) : a >>> 1 = BitVec.ofNat 8 (a.toNat / 2) := by
  apply BitVec.eq_of_toNat_eq
  rw [BitVec.toNat_ushiftRight, Nat.shiftRight_eq_div_pow, BitVec.toNat_ofNat]
  omega

theorem shiftLeft_one_eq_ofNat (a : Byte) : a <<< 1 = BitVec.ofNat 8 (a.toNat * 2 % 256) := by
  apply BitVec.eq_of_toNat_eq
  rw [BitVec.toNat_shiftLeft, Nat.shiftLeft_eq, BitVec.toNat_ofNat]
  omega

theorem add_eq_ofNat_mod (a b : Byte) : a + b = BitVec.ofNat 8 ((a.toNat + b.toNat) % 256) :=
  BitVec.eq_of_toNat_eq (by rw [BitVec.toNat_add, BitVec.toNat_ofNat, Nat.mod_mod])

theorem sub_eq_ofInt (a b : Byte) : a - b = BitVec.ofInt 8 ((a.toNat : Int) - b.toNat) := by
  apply BitVec.eq_of_toNat_eq
  rw [BitVec.toNat_sub, BitVec.toNat_ofInt]
  omega

/-! ## What a register write leaves behind -/

theorem complete_setReg (s : State) (x : Reg) (v : Byte) :
    ∃ t, complete .next (s.setReg x v) = .next t ∧ t.reg x = v ∧
      t.pc = s.pc + 2#16 ∧ Frame (fun c => c = .reg x ∨ c = .pc) s t :=
  ⟨_, rfl, s.reg_setReg_same x v, rfl, (s.frame_setReg x v).complete rfl⟩

/-! ## What a flag write leaves behind (R121) -/

theorem State.flagAndResult_writeFlagAndResult (s : State) (x : Reg) (flag result : Byte) :
    FlagAndResult s (s.writeFlagAndResult x flag result) x flag result := by
  refine ⟨fun hx => ⟨s.reg_writeFlagAndResult_result _ _ hx, s.reg_writeFlagAndResult_flag _ _ hx⟩, ?_⟩
  rintro rfl
  exact ⟨fun ho => by rw [s.reg_writeFlagAndResult_vf, ho], fun ho => by rw [s.reg_writeFlagAndResult_vf, ho]⟩

theorem complete_writeFlagAndResult (s : State) (x : Reg) (flag result : Byte) :
    ∃ t, complete .next (s.writeFlagAndResult x flag result) = .next t ∧ FlagAndResult s t x flag result ∧
      t.pc = s.pc + 2#16 ∧ Frame (fun c => c = .reg x ∨ c = .reg .vf ∨ c = .pc) s t :=
  ⟨_, rfl, s.flagAndResult_writeFlagAndResult x flag result, congrArg (· + 2#16) (s.writeFlagAndResult_pc _ _ _),
    ((s.frame_writeFlagAndResult x flag result).complete rfl).mono fun _ => or_assoc.mp⟩

/-- With X = F the two writes fall on one register. -/
theorem complete_writeFlagAndResult_vf (s : State) (flag result : Byte) :
    ∃ t, complete .next (s.writeFlagAndResult .vf flag result) = .next t ∧
      t.reg .vf = (match s.config.vfOrder with | .tableOrder => result | .flagLast => flag) ∧
      t.pc = s.pc + 2#16 ∧ Frame (fun c => c = .reg .vf ∨ c = .pc) s t :=
  ⟨_, rfl, s.reg_writeFlagAndResult_vf flag result, congrArg (· + 2#16) (s.writeFlagAndResult_pc _ _ _),
    ((s.frame_writeFlagAndResult .vf flag result).complete rfl).mono fun _ => Or.imp_left or_self_iff.mp⟩

/-! ## The flag-writing instructions (R128 to R132) -/

theorem exec_addReg (x y : Reg) (s : State) : exec (.addReg x y) s = complete .next
    (s.writeFlagAndResult x (if 255 < (s.reg x).toNat + (s.reg y).toNat then 1#8 else 0#8) (s.reg x + s.reg y)) := by
  rw [← carry_eq]; rfl

theorem exec_sub (x y : Reg) (s : State) : exec (.sub x y) s = complete .next
    (s.writeFlagAndResult x (if (s.reg x).toNat < (s.reg y).toNat then 0#8 else 1#8) (s.reg x - s.reg y)) := by
  rw [← notBorrow_eq]; rfl

theorem exec_subn (x y : Reg) (s : State) : exec (.subn x y) s = complete .next
    (s.writeFlagAndResult x (if (s.reg y).toNat < (s.reg x).toNat then 0#8 else 1#8) (s.reg y - s.reg x)) := by
  rw [← notBorrow_eq]; rfl

theorem exec_shr (x y : Reg) (s : State) : exec (.shr x y) s = complete .next
    (s.writeFlagAndResult x (BitVec.ofNat 8 ((s.reg x).toNat % 2)) (BitVec.ofNat 8 ((s.reg x).toNat / 2))) := by
  rw [← bitShiftedRight_eq, ← shiftRight_one_eq_ofNat]; rfl

theorem exec_shl (x y : Reg) (s : State) : exec (.shl x y) s = complete .next
    (s.writeFlagAndResult x (BitVec.ofNat 8 ((s.reg x).toNat / 128)) (BitVec.ofNat 8 ((s.reg x).toNat * 2 % 256))) := by
  rw [← bitShiftedLeft_eq, ← shiftLeft_one_eq_ofNat]; rfl

/-- Settles O31: each of the five instructions is one flag write, made with the flag and result of the old operands. -/
theorem vfOrderDecidesWhatVfKeeps : Obligations.VfOrderDecidesWhatVfKeeps := by
  rintro y s i flag result (⟨rfl, rfl, rfl⟩ | ⟨rfl, rfl, rfl⟩ | ⟨rfl, rfl, rfl⟩ | ⟨rfl, rfl, rfl⟩ | ⟨rfl, rfl, rfl⟩)
  · exact exec_addReg .vf y s ▸ complete_writeFlagAndResult_vf s _ _
  · exact exec_sub .vf y s ▸ complete_writeFlagAndResult_vf s _ _
  · exact exec_subn .vf y s ▸ complete_writeFlagAndResult_vf s _ _
  · exact exec_shr .vf y s ▸ complete_writeFlagAndResult_vf s _ _
  · exact exec_shl .vf y s ▸ complete_writeFlagAndResult_vf s _ _

/-- Settles O28: the sum of bytes is the sum modulo 256. -/
theorem addSetsTheCarry : Obligations.AddSetsTheCarry := by
  refine ⟨fun _ _ _ => decodeWord_eq_iff rfl, fun x y s => ?_⟩
  rw [exec_addReg, ← add_eq_ofNat_mod]
  exact complete_writeFlagAndResult s x _ _

/-- Settles O29: the difference of bytes is the integer difference modulo 256, for either order of the operands. -/
theorem subtractSetsNotBorrow : Obligations.SubtractSetsNotBorrow := by
  refine ⟨fun _ _ _ => decodeWord_eq_iff rfl, fun _ _ _ => decodeWord_eq_iff rfl, fun x y s => ?_, fun x y s => ?_⟩
  · rw [exec_sub, ← sub_eq_ofInt]
    exact complete_writeFlagAndResult s x _ _
  · rw [exec_subn, ← sub_eq_ofInt]
    exact complete_writeFlagAndResult s x _ _

/-- Settles O30: neither shift reads Vy. -/
theorem shiftSetsTheBitShiftedOut : Obligations.ShiftSetsTheBitShiftedOut := by
  refine ⟨fun _ _ _ => decodeWord_eq_iff rfl, fun _ _ _ => decodeWord_eq_iff rfl, fun x y s => ?_, fun x y s => ?_⟩
  · exact exec_shr x y s ▸ complete_writeFlagAndResult s x _ _
  · exact exec_shl x y s ▸ complete_writeFlagAndResult s x _ _

/-! ## The instructions without a flag (R122 to R127) -/

/-- Settles O26: each is one register write, and the sum of bytes wraps. -/
theorem immediateLoadAndAdd : Obligations.ImmediateLoadAndAdd := by
  refine ⟨fun _ _ _ => decodeWord_eq_iff rfl, fun _ _ _ => decodeWord_eq_iff rfl,
    fun x nn s => complete_setReg s x nn, fun x nn s => ?_⟩
  obtain ⟨t, ht, hx, hrest⟩ := complete_setReg s x (s.reg x + nn)
  exact ⟨t, ht, hx ▸ BitVec.toNat_add _ _, hrest⟩

/-- Settles O27: each is one register write, and the logic of bytes is that of their bits. -/
theorem registerCopyAndLogic : Obligations.RegisterCopyAndLogic := by
  refine ⟨fun _ _ _ => decodeWord_eq_iff rfl, fun _ _ _ => decodeWord_eq_iff rfl, fun _ _ _ => decodeWord_eq_iff rfl,
    fun _ _ _ => decodeWord_eq_iff rfl, fun x y s => complete_setReg s x (s.reg y), fun x y s => ?_, fun x y s => ?_,
    fun x y s => ?_⟩
  · obtain ⟨t, ht, hx, hrest⟩ := complete_setReg s x (s.reg x ||| s.reg y)
    exact ⟨t, ht, fun _ => hx ▸ BitVec.getLsbD_or, hrest⟩
  · obtain ⟨t, ht, hx, hrest⟩ := complete_setReg s x (s.reg x &&& s.reg y)
    exact ⟨t, ht, fun _ => hx ▸ BitVec.getLsbD_and, hrest⟩
  · obtain ⟨t, ht, hx, hrest⟩ := complete_setReg s x (s.reg x ^^^ s.reg y)
    exact ⟨t, ht, fun _ => hx ▸ BitVec.getLsbD_xor, hrest⟩

/-! ## The free byte (R133, R134) -/

/-- Settles O32: a bit outside NN is masked off, whatever byte is drawn. -/
theorem randomIsAMaskedFreeByte : Obligations.RandomIsAMaskedFreeByte := by
  refine ⟨fun _ _ _ => decodeWord_eq_iff rfl, fun x nn s => ?_⟩
  have hx := s.reg_setReg_same x (Config.drawByte s.freeCount &&& nn)
  refine ⟨_, rfl, hx, fun b hb => ?_, rfl, rfl, ?_⟩
  · exact (congrArg (·.getLsbD b) hx).trans (by rw [BitVec.getLsbD_and, hb, Bool.and_false])
  · exact (((s.frame_setReg x _).then (State.frame_countFree _)).complete rfl).mono fun _ => or_assoc.mp

end Sys2Proof.Machine
end

section
/-! PROOFS. Index register and memory transfers (spec/43_index_memory.md R140 to R146): what each write reads back as,
and the next state of each instruction of the family. -/

namespace Sys2Proof.Machine

/-! ## Stores and loads through `I` (R144, R145) -/

theorem State.getElem_regsUpTo (s : State) (x k : Reg) (h : k.toNat < (s.regsUpTo x).length) :
    (s.regsUpTo x)[k.toNat] = s.reg k := by
  simp only [State.regsUpTo, List.getElem_take, Vector.getElem_toList, State.reg]

/-- FX55 stores register `k` at `ea(k)`. -/
theorem State.readByte_storeRegs (s : State) {x k : Reg} (h : k.toNat ≤ x.toNat) :
    (s.storeAtI (s.regsUpTo x)).readByte (s.ea k.toNat) = s.reg k := by
  have hlen := s.length_regsUpTo x
  rw [s.readByte_storeAtI_same _ k.toNat (by omega) (by omega), s.getElem_regsUpTo]

/-- FX65 loads register `k` from `ea(k)`. -/
theorem State.reg_loadRegs (s : State) {x k : Reg} (h : k.toNat ≤ x.toNat) :
    (s.setRegs (s.regsFromI x)).reg k = s.readByte (s.ea k.toNat) := by
  rw [State.reg_setRegs, State.regsFromI, Vector.getElem_ofFn, if_pos h]

theorem exec_ldMemVx (x : Reg) (s : State) :
    ∃ t, exec (.ldMemVx x) s = .next t ∧
      (∀ k : Reg, k.toNat ≤ x.toNat → t.readByte (s.ea k.toNat) = s.reg k) ∧
      t.pc = s.pc + 2#16 ∧ Frame (fun c => (∃ k, k ≤ x.toNat ∧ c = .byte (s.ea k)) ∨ c = .pc) s t :=
  ⟨_, rfl, fun _ => s.readByte_storeRegs, rfl, (s.frame_storeRegs x).complete rfl⟩

theorem exec_ldVxMem (x : Reg) (s : State) :
    ∃ t, exec (.ldVxMem x) s = .next t ∧
      (∀ k : Reg, k.toNat ≤ x.toNat → t.reg k = s.readByte (s.ea k.toNat)) ∧
      t.pc = s.pc + 2#16 ∧ Frame (fun c => (∃ k : Reg, k.toNat ≤ x.toNat ∧ c = .reg k) ∨ c = .pc) s t :=
  ⟨_, rfl, fun _ => s.reg_loadRegs, rfl, (s.frame_regsFromI x).complete rfl⟩

/-- Settles O38: the store keeps `I`, so the load reads each register's byte at the address it was stored at. -/
theorem loadUndoesStore : Obligations.LoadUndoesStore := by
  intro x s t u hstore hmem hI
  obtain ⟨t', hstore', hstored, -, hframe⟩ := exec_ldMemVx x s
  obtain rfl : t' = t := Host.Outcome.next.inj (hstore'.symm.trans hstore)
  have hI' : t'.I = s.I := hframe .indexReg (by simp)
  have hea (k : Nat) : u.ea k = s.ea k := by simp only [State.ea, hI, hI']
  obtain ⟨v, hload, hloaded, -⟩ := exec_ldVxMem x u
  refine ⟨v, hload, fun k hk => ?_⟩
  calc v.reg k = u.readByte (u.ea k.toNat) := hloaded k hk
    _ = t'.readByte (s.ea k.toNat) := by rw [hea, hmem]
    _ = s.reg k := hstored k hk

/-- Settles O36: sixteen bytes at most are stored, at different addresses. -/
theorem storeWritesV0ToVx : Obligations.StoreWritesV0ToVx :=
  ⟨fun _ _ => decodeWord_eq_iff rfl, exec_ldMemVx⟩

/-- Settles O37: the new register file is read from the old memory. -/
theorem loadReadsV0ToVx : Obligations.LoadReadsV0ToVx :=
  ⟨fun _ _ => decodeWord_eq_iff rfl, exec_ldVxMem⟩

/-! ## Decimal digits (R143) -/

/-- FX33 stores digit `k` at `ea(k)`. -/
theorem State.readByte_storeDigits (s : State) (v : Byte) (k : Fin 3) :
    (s.storeAtI (bcdDigits v)).readByte (s.ea k) = (bcdDigits v)[k] :=
  s.readByte_storeAtI_same (bcdDigits v) k k.isLt (show 3 ≤ 16 by decide)

/-- Settles O35: three bytes are stored, and division and remainder of bytes are those of their numbers. -/
theorem bcdStoresThreeDigits : Obligations.BcdStoresThreeDigits := by
  refine ⟨fun _ _ => decodeWord_eq_iff rfl, fun x s => ?_⟩
  have hdigit (k : Fin 3) := congrArg BitVec.toNat (s.readByte_storeDigits (s.reg x) k)
  refine ⟨_, rfl, ?hundreds, ?tens, ?ones, rfl, (s.frame_storeAtI (bcdDigits _)).complete rfl⟩
  case hundreds => exact (hdigit 0).trans BitVec.toNat_udiv
  case tens => exact (hdigit 1).trans (by simp [bcdDigits])
  case ones => exact (hdigit 2).trans BitVec.toNat_umod

/-! ## Writers of `I` (R140 to R142) -/

theorem complete_setI (s : State) (v : Word) :
    ∃ t, complete .next (s.setI v) = .next t ∧ t.I = v ∧
      t.pc = s.pc + 2#16 ∧ Frame (fun c => c = .indexReg ∨ c = .pc) s t :=
  ⟨_, rfl, rfl, rfl, (s.frame_setI v).complete rfl⟩

theorem add_setWidth_toNat (i : Word) (v : Byte) :
    (i + v.setWidth 16).toNat = (i.toNat + v.toNat) % 65536 := by
  bv_omega

/-- The largest glyph address, of byte 255, fits in 16 bits. -/
theorem glyphAddress_toNat (v : Byte) : (glyphAddress v).toNat = v.toNat * 5 := by
  unfold glyphAddress
  bv_omega

/-- Settles O34: each is one write of `I`, by the number that the written word stands for. -/
theorem indexRegisterWrites : Obligations.IndexRegisterWrites := by
  refine ⟨fun _ _ => decodeWord_eq_iff rfl, fun _ _ => decodeWord_eq_iff rfl, fun _ _ => decodeWord_eq_iff rfl,
    fun nnn s => ?_, fun x s => ?_, fun x s => ?_⟩
  · obtain ⟨t, ht, hI, hrest⟩ := complete_setI s (nnn.setWidth 16)
    exact ⟨t, ht, hI ▸ BitVec.toNat_setWidth_of_le (by omega), hrest⟩
  · obtain ⟨t, ht, hI, hrest⟩ := complete_setI s (s.I + (s.reg x).setWidth 16)
    exact ⟨t, ht, hI ▸ add_setWidth_toNat s.I _, hrest⟩
  · obtain ⟨t, ht, hI, hrest⟩ := complete_setI s (glyphAddress (s.reg x))
    exact ⟨t, ht, hI ▸ glyphAddress_toNat _, hrest⟩

end Sys2Proof.Machine
end

section
/-! PROOFS. The display (spec/44_display.md R160 to R163): what a sprite covers is what its draw toggles, and the next
state of 00E0 and of DXYN. -/

namespace Sys2Proof.Machine

/-! ## What a draw toggles (R161, R162) -/

/-- What a sprite covers, in the terms of the laws of the canvas. -/
theorem State.spriteCovers_iff_rowsDraw (s : State) (x y : Reg) (n : Nibble) (p : Nat) :
    s.spriteCovers x y n p ↔
      rowsDraw (fun r => s.readByte (s.ea r)) (s.spriteCol x) (s.spriteRow y) n.toNat p := by
  simp only [State.spriteCovers, rowsDraw, bitDrawn, and_assoc]

/-- The laws of the canvas for a whole sprite, drawn on the state's display. -/
theorem State.drawSprite_spec (s : State) (x y : Reg) (n : Nibble) :
    (∀ p, s.spriteCovers x y n p → (s.drawSprite x y n).display.getLsbD p = !s.pixel p) ∧
    (∀ p, ¬ s.spriteCovers x y n p → (s.drawSprite x y n).display.getLsbD p = s.pixel p) ∧
    ((s.drawSprite x y n).collision = true ↔ ∃ p, s.spriteCovers x y n p ∧ s.pixel p = true) := by
  simpa only [s.spriteCovers_iff_rowsDraw, State.drawSprite, State.pixel, Bool.false_eq_true, false_or] using
    Canvas.drawRows_spec (fun r => s.readByte (s.ea r)) (s.spriteCol x) (s.spriteRow y) ⟨s.display, false⟩ n.toNat

/-- A display write that keeps the pixels outside `P`. -/
theorem State.frame_setDisplay_of_eq_outside (s : State) (v : BitVec pixelCount) {P : Nat → Prop}
    (hv : ∀ p, ¬ P p → v.getLsbD p = s.pixel p) :
    Frame (fun c => ∃ p, P p ∧ c = .pixel p) s (s.setDisplay v) := by
  intro c hc
  cases c with
  | pixel p => exact hv p fun hp => hc ⟨p, hp, rfl⟩
  | _ => rfl

/-- DXYN writes the pixels its sprite covers, VF and the draw flag. -/
theorem State.frame_drawSprite (s : State) (x y : Reg) (n : Nibble) (flag : Byte) (pending : Bool) :
    Frame (fun c => (∃ p, s.spriteCovers x y n p ∧ c = .pixel p) ∨ c = .reg .vf ∨ c = .drawFlag) s
      (((s.setDisplay (s.drawSprite x y n).display).setReg .vf flag).setDrawPending pending) := by
  obtain ⟨-, huncovered, -⟩ := s.drawSprite_spec x y n
  exact (((s.frame_setDisplay_of_eq_outside _ huncovered).then (State.frame_setReg _ _ _)).then
    (State.frame_setDrawPending _ _)).mono fun _ => or_assoc.mp

/-! ## The two instructions (R160 to R163) -/

theorem exec_drw (x y : Reg) (n : Nibble) (s : State) :
    ∃ t, exec (.drw x y n) s = .next t ∧
      (∀ p, s.spriteCovers x y n p → t.pixel p = !s.pixel p) ∧
      ((∃ p, s.spriteCovers x y n p ∧ s.pixel p = true) → t.reg .vf = 1#8) ∧
      ((∀ p, s.spriteCovers x y n p → s.pixel p = false) → t.reg .vf = 0#8) ∧
      t.drawPending = true ∧ t.pc = s.pc + 2#16 ∧
      Frame (fun c => (∃ p, s.spriteCovers x y n p ∧ c = .pixel p) ∨ c = .reg .vf ∨ c = .drawFlag ∨ c = .pc) s t := by
  obtain ⟨hcovered, -, hcollision⟩ := s.drawSprite_spec x y n
  have hvf := (s.setDisplay (s.drawSprite x y n).display).reg_setReg_same .vf
    (Byte.ofBool (s.drawSprite x y n).collision)
  refine ⟨_, rfl, hcovered, fun hhit => ?hit, fun hmiss => ?miss, rfl, rfl, ?frame⟩
  case hit => exact hvf.trans (by rw [hcollision.mpr hhit]; rfl)
  case miss =>
    have hno : (s.drawSprite x y n).collision = false := by
      rw [Bool.eq_false_iff, Ne, hcollision]
      rintro ⟨p, hp, hset⟩
      exact absurd (hmiss p hp) (by simp [hset])
    exact hvf.trans (by rw [hno]; rfl)
  case frame =>
    exact ((s.frame_drawSprite x y n _ true).complete rfl).mono fun _ h => by simpa only [or_assoc] using h

/-- Settles O41: the canvas laws, at the display, the registers and the memory of the state before the draw. -/
theorem drawTogglesTheCoveredPixels : Obligations.DrawTogglesTheCoveredPixels :=
  ⟨fun _ _ _ _ => decodeWord_eq_iff rfl, exec_drw⟩

/-- Settles O40: no pixel of the zero display is set. -/
theorem clearScreenBlanksTheDisplay : Obligations.ClearScreenBlanksTheDisplay := by
  refine ⟨fun _ => decodeWord_eq_iff rfl, fun s => ⟨_, rfl, fun _ => BitVec.getLsbD_zero, rfl, rfl, ?_⟩⟩
  exact (((s.frame_setDisplay _).then (State.frame_setDrawPending _ _)).complete rfl).mono fun _ => or_assoc.mp

/-! ## Two draws in a row -/

/-- The place, the rows and the height of a sprite depend on Vx, Vy, `I` and the memory only. -/
theorem State.spriteCovers_congr {s t : State} {x y : Reg} (hx : t.reg x = s.reg x) (hy : t.reg y = s.reg y)
    (hI : t.I = s.I) (hmem : ∀ a, t.readByte a = s.readByte a) (n : Nibble) (p : Nat) :
    t.spriteCovers x y n p ↔ s.spriteCovers x y n p := by
  simp only [State.spriteCovers, State.spriteCol, State.spriteRow, State.ea, hx, hy, hI, hmem]

/-- Settles O42: the first draw leaves alone all that places the sprite, so both toggle the same pixels; on a blank
screen, these are the pixels that the second draw finds set. -/
theorem drawingTwiceRestoresTheDisplay : Obligations.DrawingTwiceRestoresTheDisplay := by
  intro x y n s t u hx hy hst htu
  obtain ⟨t', hst', htoggle, -, hmiss, -, -, hframe⟩ := exec_drw x y n s
  obtain rfl : t' = t := Host.Outcome.next.inj (hst'.symm.trans hst)
  obtain ⟨u', htu', htoggle', hhit', hmiss', -, -, hframe'⟩ := exec_drw x y n t'
  obtain rfl : u' = u := Host.Outcome.next.inj (htu'.symm.trans htu)
  have hcovers (p : Nat) : t'.spriteCovers x y n p ↔ s.spriteCovers x y n p :=
    State.spriteCovers_congr (hframe (.reg x) (by simp [hx])) (hframe (.reg y) (by simp [hy]))
      (hframe .indexReg (by simp)) (fun a => hframe (.byte a) (by simp)) n p
  simp only [hcovers] at htoggle' hhit' hmiss' hframe'
  refine ⟨display_eq_of_same fun p => show u'.pixel p = s.pixel p from ?_, fun hblank => ?_⟩
  · by_cases hp : s.spriteCovers x y n p
    · rw [htoggle' p hp, htoggle p hp, Bool.not_not]
    · exact (hframe' (.pixel p) (by simp [hp])).trans (hframe (.pixel p) (by simp [hp]))
  · refine ⟨hmiss fun p _ => hblank p, ?_⟩
    by_cases hc : ∃ p, s.spriteCovers x y n p
    · obtain ⟨p, hp⟩ := hc
      have hvf : u'.reg .vf = 1#8 := hhit' ⟨p, hp, by rw [htoggle p hp, hblank p]; rfl⟩
      exact ⟨iff_of_true hvf ⟨p, hp⟩, iff_of_false (by simp [hvf]) fun h => h p hp⟩
    · have hno : ∀ p, ¬ s.spriteCovers x y n p := not_exists.mp hc
      have hvf : u'.reg .vf = 0#8 := hmiss' fun p hp => absurd hp (hno p)
      exact ⟨iff_of_false (by simp [hvf]) hc, iff_of_true hvf hno⟩

end Sys2Proof.Machine
end

section
/-! PROOFS. Keypad latch and timer access (spec/45_keys_timers.md R170 to R176): what a key index reads under each
setting of the parameter, and the next state of each instruction of the family. -/

namespace Sys2Proof.Machine

/-! ## The key an index reads (R170) -/

/-- A byte names a key by its low four bits, which are the whole of an index within the keypad. -/
theorem State.key_setWidth (s : State) {v : Byte} {k : Fin 16} (h : v.toNat % 16 = k.val) :
    s.key (v.setWidth 4) = s.keypad[k] := by
  simp only [State.key, BitVec.toNat_setWidth, Nat.reducePow, h, Fin.getElem_fin]

theorem State.readKey_of_inside {s : State} {v : Byte} {k : Fin 16} (hv : v.toNat = k.val) :
    s.readKey v = .ok (s.keypad[k], s) := by
  rw [← s.key_setWidth (v := v) (by omega)]
  exact if_pos (by omega)

theorem State.readKey_of_lowNibble {s : State} {v : Byte} {k : Fin 16} (hv : 15 < v.toNat)
    (hc : s.config.keyIndexPolicy = .lowNibble) (hk : v.toNat % 16 = k.val) :
    s.readKey v = .ok (s.keypad[k], s) := by
  simp only [State.readKey, if_neg (Nat.not_le.mpr hv), hc, s.key_setWidth hk]

theorem State.readKey_of_notPressed {s : State} {v : Byte} (hv : 15 < v.toNat)
    (hc : s.config.keyIndexPolicy = .notPressed) : s.readKey v = .ok (false, s) := by
  simp only [State.readKey, if_neg (Nat.not_le.mpr hv), hc]

theorem State.readKey_of_anyValue {s : State} {v : Byte} (hv : 15 < v.toNat)
    (hc : s.config.keyIndexPolicy = .anyValue) :
    s.readKey v = .ok (Config.keyBeyond s.freeCount v, s.countFree) := by
  simp only [State.readKey, if_neg (Nat.not_le.mpr hv), hc]

/-! ## The key skips (R171, R172) -/

theorem exec_skp_of_readKey {x : Reg} {s u : State} {pressed : Bool}
    (h : s.readKey (s.reg x) = .ok (pressed, u)) : exec (.skp x) s = complete (.skip pressed) u := by
  simp only [exec, execSkp, h]

theorem exec_sknp_of_readKey {x : Reg} {s u : State} {pressed : Bool}
    (h : s.readKey (s.reg x) = .ok (pressed, u)) : exec (.sknp x) s = complete (.skip !pressed) u := by
  simp only [exec, execSknp, h]

theorem newPc_skip_not (pc : Word) (pressed : Bool) :
    Effect.newPc pc (.skip !pressed) = pc + (if pressed = true then 2#16 else 4#16) := by
  cases pressed <;> rfl

/-- A key read that answers without taking a free value decides both skips, and only `pc` moves. -/
theorem keySkips_of_readKey {x : Reg} {s : State} {pressed : Bool} (h : s.readKey (s.reg x) = .ok (pressed, s)) :
    (∃ t, exec (.skp x) s = .next t ∧ t.pc = s.pc + (if pressed = true then 4#16 else 2#16) ∧
      Frame (fun c => c = .pc) s t) ∧
    (∃ t, exec (.sknp x) s = .next t ∧ t.pc = s.pc + (if pressed = true then 2#16 else 4#16) ∧
      Frame (fun c => c = .pc) s t) := by
  rw [exec_skp_of_readKey h, exec_sknp_of_readKey h, ← newPc_skip_not]
  exact ⟨complete_moves_pc _ s, complete_moves_pc _ s⟩

/-- Settles O44: both skips follow the one key read, whose answer is that of the index's range and the parameter. -/
theorem keySkipsReadTheNamedKey : Obligations.KeySkipsReadTheNamedKey := by
  refine ⟨fun _ _ => decodeWord_eq_iff rfl, fun _ _ => decodeWord_eq_iff rfl, ?named, ?notPressed, ?refuse⟩
  case named =>
    rintro x s k (hv | ⟨hv, hc, hk⟩)
    · exact keySkips_of_readKey (State.readKey_of_inside hv)
    · exact keySkips_of_readKey (State.readKey_of_lowNibble hv hc hk)
  case notPressed => exact fun x s hv hc => keySkips_of_readKey (State.readKey_of_notPressed hv hc)
  case refuse =>
    intro x s hv hc
    have hread := State.readKey_eq_error.mpr ⟨hv, hc, rfl⟩
    exact ⟨(exec_keySkip_eq_refused (.inl rfl)).mpr hread, (exec_keySkip_eq_refused (.inr rfl)).mpr hread⟩

/-- Settles O45: the read counts its free value before the skip moves `pc`. -/
theorem keyIndexPastTheKeypadRunsOnAFreeValue : Obligations.KeyIndexPastTheKeypadRunsOnAFreeValue := by
  intro x s hv hc
  have hread := State.readKey_of_anyValue hv hc
  rw [exec_skp_of_readKey hread, exec_sknp_of_readKey hread, ← newPc_skip_not]
  exact ⟨⟨_, rfl, rfl, rfl, s.frame_countFree.complete rfl⟩, ⟨_, rfl, rfl, rfl, s.frame_countFree.complete rfl⟩⟩

/-! ## The timers (R173, R175, R176) -/

/-- Settles O46: each is one write, of a register or of a timer. -/
theorem timerTransfers : Obligations.TimerTransfers := by
  refine ⟨fun _ _ => decodeWord_eq_iff rfl, fun _ _ => decodeWord_eq_iff rfl, fun _ _ => decodeWord_eq_iff rfl,
    fun x s => complete_setReg s x s.dt, fun x s => ?_, fun x s => ?_⟩
  · exact ⟨_, rfl, rfl, rfl, (s.frame_setDt _).complete rfl⟩
  · exact ⟨_, rfl, rfl, rfl, (s.frame_setSt _).complete rfl⟩

/-! ## The key-wait (R91, R174, R210, R212) -/

/-- FX0A writes the wait and leaves `pc` where it is (R174). -/
theorem exec_ldVxK (x : Reg) (s : State) : exec (.ldVxK x) s = .next (s.setWaiting (some x)) := rfl

@[simp] theorem State.hostReset_waiting (s : State) : s.hostReset.waiting = none := rfl

/-- Settles O47: the wait is one write of FX0A, the least pressed key resolves it, and a load that succeeds writes
memory only over the reset state. -/
theorem keyWaitIsEnteredResolvedAndCancelled : Obligations.KeyWaitIsEnteredResolvedAndCancelled := by
  refine ⟨fun _ _ => decodeWord_eq_iff rfl, ?entered, ?blocked, ?resolved, ?reset, ?load⟩
  case entered => exact fun x s => ⟨_, exec_ldVxK x s, rfl, s.frame_setWaiting _⟩
  case blocked =>
    intro x u hw hnone
    obtain ⟨hblocked, -⟩ := keyWaitTakesTheLeastPressedKey u x hw
    exact (hblocked hnone).2
  case resolved =>
    intro x u k hw hk hleast
    obtain ⟨-, hresolved⟩ := keyWaitTakesTheLeastPressedKey u x hw
    obtain ⟨-, v, hstep, hreg, hwait, hpc, -⟩ := hresolved k hk hleast
    exact ⟨v, hstep, hreg, hwait, hpc⟩
  case reset => exact fun u => ⟨_, rfl, u.hostReset_waiting⟩
  case load =>
    intro u v bytes h
    obtain ⟨-, rfl⟩ := loadProgram_eq_next h
    simp

end Sys2Proof.Machine
end

section
/-! PROOFS. The fatal results of a step (spec/60_exceptions.md R180, R184): which instructions raise one, and when. -/

namespace Sys2Proof.Machine

/-! ## Instructions that can stop but never fault (R76, R98, R170) -/

theorem unspecified_ne_fault {s : State} {f : Fault} : unspecified s ≠ .fault f := by
  cases hc : s.config.unspecEncoding with
  | refuse => simp [unspecified_of_refuse hc]
  | nop => exact unspecified_of_nop hc ▸ complete_ne_fault

/-- A key skip ends as its key read does: in a refusal or in a skip. -/
theorem exec_keySkip_ne_fault {x : Reg} {i : Instr} {s : State} {f : Fault} (hi : i = .skp x ∨ i = .sknp x) :
    exec i s ≠ .fault f := by
  rcases hi with rfl | rfl <;> simp only [exec, execSkp, execSknp]
  all_goals
    cases s.readKey (s.reg x) with
    | error r => simp
    | ok p => exact complete_ne_fault

/-! ## RET and CALL (R100, R103) -/

theorem execRet_eq_fault {s : State} {f : Fault} :
    execRet s = .fault f ↔ s.sp.val = 0 ∧ f = .stackUnderflow s.pc := by
  cases hp : s.pop with
  | none =>
    have hsp := State.pop_eq_none hp
    simp [execRet_of_empty hsp, hsp, eq_comm]
  | some p =>
    obtain ⟨k, hk, -⟩ := State.pop_eq_some hp
    simp [execRet, hp, hk, complete_ne_fault]

theorem execCall_eq_fault {nnn : Addr} {s : State} {f : Fault} :
    execCall nnn s = .fault f ↔ s.sp.val = 16 ∧ f = .stackOverflow s.pc := by
  cases hp : s.push (s.pc + 2#16) with
  | none =>
    have hsp := State.push_eq_none hp
    simp [execCall_of_full hsp, hsp, eq_comm]
  | some u =>
    obtain ⟨k, hk, -⟩ := State.push_eq_some hp
    simp [execCall, hp, hk, k.isLt.ne, complete_ne_fault]

/-! ## The step (R92, R180, R184) -/

/-- Of all instructions only RET and CALL can fault. -/
theorem exec_eq_fault {i : Instr} {s : State} {f : Fault} : exec i s = .fault f ↔
    (i = .ret ∧ s.sp.val = 0 ∧ f = .stackUnderflow s.pc) ∨
    ((∃ nnn, i = .call nnn) ∧ s.sp.val = 16 ∧ f = .stackOverflow s.pc) := by
  constructor
  · intro h
    cases i with
    | ret => exact .inl ⟨rfl, execRet_eq_fault.mp h⟩
    | call nnn => exact .inr ⟨⟨nnn, rfl⟩, execCall_eq_fault.mp h⟩
    | skp x => exact absurd h (exec_keySkip_ne_fault (.inl rfl))
    | sknp x => exact absurd h (exec_keySkip_ne_fault (.inr rfl))
    | unspec5 | unspec9 | unspecE => exact absurd h unspecified_ne_fault
    | _ => exact absurd h complete_ne_fault
  · rintro (⟨rfl, h⟩ | ⟨⟨nnn, rfl⟩, h⟩)
    · exact execRet_eq_fault.mpr h
    · exact execCall_eq_fault.mpr h

theorem step_eq_fault {s : State} {f : Fault} : step s = .fault f ↔
    s.waiting = none ∧
      ((0xFFE < s.pc.toNat ∧ f = .fatalTrap s.pc) ∨
       (s.pc.toNat ≤ 0xFFE ∧ exec (decodeWord s.fetchWord) s = .fault f)) := by
  rcases step_cases s with ⟨r, hw, hs⟩ | ⟨hw, hp, hs⟩ | ⟨hw, hp, hs⟩
  · simp [hs, hw, keyWait_ne_fault]
  · simp [hs, hw, hp, Nat.not_le.mpr hp, eq_comm]
  · simp [hs, hw, hp, Nat.not_lt.mpr hp]

/-- Settles O8: the fetch faults past the memory, and of all instructions RET and CALL fault at an end of the stack. -/
theorem stepFaultsExactlyInThreeCases : Obligations.StepFaultsExactlyInThreeCases := by
  intro s f
  have hret := decodeWord_eq_iff (w := s.fetchWord) (i := .ret) rfl
  have hcall (nnn : Addr) := decodeWord_eq_iff (w := s.fetchWord) (i := .call nnn) rfl
  rw [step_eq_fault, exec_eq_fault]
  simp only [hret, hcall, and_or_left]
  rfl

end Sys2Proof.Machine
end

section
/-! PROOFS. The host's operations (spec/60_exceptions.md R188 to R192): the timer tick, the keypad latch, the draw
flag, and that each keeps the invariant. -/

namespace Sys2Proof.Machine

/-! ## Timers, keypad and draw flag (R26, R188, R191, R192) -/

theorem tick_toNat (v : Byte) : (tick v).toNat = v.toNat - 1 := by
  by_cases hv : v = 0#8
  · simp [tick, hv]
  · rw [tick, if_neg hv]
    bv_omega

theorem State.frame_tickTimers (s : State) : Frame (fun c => c = .dt ∨ c = .st) s s.tickTimers :=
  (s.frame_setDt _).then (State.frame_setSt _ _)

theorem State.frame_setKeypad (s : State) (k : Vector Bool 16) :
    Frame (fun c => ∃ j, c = .key j) s (s.setKeypad k) := by
  intro c hc
  cases c with
  | key j => exact absurd ⟨j, rfl⟩ hc
  | _ => rfl

/-- Settles O55: a tick is subtraction on the natural numbers, where 0 stays 0. -/
theorem tickTakesOneFromEachRunningTimer : Obligations.TickTakesOneFromEachRunningTimer := by
  intro s
  have hdt : s.tickTimers.dt.toNat = s.dt.toNat - 1 := tick_toNat s.dt
  have hst : s.tickTimers.st.toNat = s.st.toNat - 1 := tick_toNat s.st
  exact ⟨s.tickTimers, rfl, fun _ => hdt, by omega, fun _ => hst, by omega, s.frame_tickTimers⟩

/-- Settles O56: each write is one setter of the state, and each read returns a field. -/
theorem hostWritesKeysClearsDrawFlagAndReads : Obligations.HostWritesKeysClearsDrawFlagAndReads := fun s k =>
  ⟨⟨s.setKeys k, rfl, rfl, s.frame_setKeypad k⟩, ⟨s.clearDrawPending, rfl, rfl, s.frame_setDrawPending false⟩,
    rfl, rfl, rfl, fun _ => rfl, rfl, rfl⟩

/-! ## The invariant (R210, R212) -/

theorem State.inv_hostReset (s : State) : Inv s.hostReset where
  memory_wf := Memory.wf_nil s.config
  pc_le := (by decide : (0x200#16).toNat ≤ 0x10FE)
  stack_le k := by simp [State.hostReset, State.reset]
  waiting_at := by simp

/-- A machine that does not wait keeps the invariant under a write of its memory in canonical form. -/
theorem Inv.setMemory {s : State} (hs : Inv s) (hw : s.waiting = none) {m : Memory} (hm : Memory.wf s.config m) :
    Inv (s.setMemory m) :=
  ⟨hm, hs.pc_le, hs.stack_le, by simp [hw]⟩

/-- A program that fits ends at most at 0xFFF, so loading it writes inside the memory (R212). -/
theorem loadProgram_inv {bytes : List Byte} {s t : State} (h : loadProgram bytes s = .next t) : Inv t := by
  obtain ⟨hfits, rfl⟩ := loadProgram_eq_next h
  refine s.inv_hostReset.setMemory s.hostReset_waiting ?_
  exact Memory.wf_writeAll _ _ _ (Memory.wf_nil s.config) fun j _ hj => by unfold programBase; omega

/-- A reset and a load establish the invariant; the other operations write no component of which it speaks. -/
theorem hostOp_keeps_inv {o : HostOp} {s t : State} (hs : Inv s) (h : hostOp o s = .next t) : Inv t := by
  cases o with
  | loadProgram bytes => exact loadProgram_inv h
  | reset => exact Host.Outcome.next.inj h ▸ s.inv_hostReset
  | tickTimers | setKeys | clearDrawPending | readDisplay | readDrawPending | readSoundTimer =>
    obtain rfl := Host.Outcome.next.inj h
    exact ⟨hs.memory_wf, hs.pc_le, hs.stack_le, hs.waiting_at⟩

end Sys2Proof.Machine
end

section
/-! PROOFS. Runs of steps and host operations (spec/20_memory.md R61, spec/60_exceptions.md R183; log entry 12): how a
run goes on past an event, where it stops, and what it keeps. -/

namespace Sys2Proof.Machine

/-- Past its first event, a run that reaches a state goes on from the next state of that event, or from the same state
when the event was a failed load (R213). -/
theorem runEvents_cons_eq_next {e : Event} {es : List Event} {s t : State} (h : runEvents (e :: es) s = .next t) :
    ∃ u, (runEvent e s = .next u ∨ u = s) ∧ ∀ es', runEvents (e :: es') s = runEvents es' u := by
  cases he : runEvent e s with
  | next u => exact ⟨u, .inl rfl, fun es' => by rw [runEvents, he]⟩
  | refused r => simp [runEvents, he] at h
  | fault f =>
    cases f with
    | programTooLarge n => exact ⟨s, .inr rfl, fun es' => by rw [runEvents, he]⟩
    | stackOverflow | stackUnderflow | fatalTrap => simp [runEvents, he] at h

theorem runEvents_append {es : List Event} {s t : State} (h : runEvents es s = .next t) (es' : List Event) :
    runEvents (es ++ es') s = runEvents es' t := by
  induction es generalizing s with
  | nil => exact Host.Outcome.next.inj h ▸ rfl
  | cons e es ih =>
    obtain ⟨u, -, hrest⟩ := runEvents_cons_eq_next h
    rw [List.cons_append, hrest]
    exact ih (hrest es ▸ h)

/-- A run stops at a fault of a step, which is never the recoverable ProgramTooLarge (R184). -/
theorem runEvents_step_of_fault {s : State} {f : Fault} (h : step s = .fault f) (es : List Event) :
    runEvents (.step :: es) s = .fault f := by
  cases f with
  | programTooLarge n => exact absurd h (step_ne_programTooLarge s n)
  | stackOverflow | stackUnderflow | fatalTrap => simp only [runEvents, runEvent, h]

theorem runEvents_step_of_refused {s : State} {r : Refusal} (h : step s = .refused r) (es : List Event) :
    runEvents (.step :: es) s = .refused r := by
  simp only [runEvents, runEvent, h]

/-- Settles O60: the run goes to the state before the step, and stops there. -/
theorem runsKeepTheFirstStop : Obligations.RunsKeepTheFirstStop := by
  intro es es' s t ht
  rw [runEvents_append ht]
  exact ⟨fun _ hf => runEvents_step_of_fault hf es', fun _ hr => runEvents_step_of_refused hr es'⟩

theorem runEvent_keeps_inv {e : Event} {s t : State} (hs : Inv s) (h : runEvent e s = .next t) : Inv t := by
  cases e with
  | step => exact stepKeepsTheInvariant s t hs h
  | host o => exact hostOp_keeps_inv hs h

theorem runEvents_keeps_inv {es : List Event} {s t : State} (hs : Inv s) (h : runEvents es s = .next t) : Inv t := by
  induction es generalizing s with
  | nil => exact Host.Outcome.next.inj h ▸ hs
  | cons e es ih =>
    obtain ⟨u, hu, hrest⟩ := runEvents_cons_eq_next h
    have hinv : Inv u := by
      rcases hu with he | rfl
      · exact runEvent_keeps_inv hs he
      · exact hs
    exact ih hinv (hrest es ▸ h)

/-- Settles O13: every event keeps the invariant, and a failed load leaves the run in the state it had. -/
theorem hostOperationsAndRunsKeepTheInvariant : Obligations.HostOperationsAndRunsKeepTheInvariant :=
  ⟨fun _ _ _ => hostOp_keeps_inv, fun _ _ _ => runEvents_keeps_inv⟩

end Sys2Proof.Machine
end

section
/-! PROOFS. Reset, program load and the Idle states (spec/70_reset_and_hazards.md R210 to R213, R220). -/

namespace Sys2Proof.Machine

/-! ## Reset (R210, R211) -/

/-- Settles O11: the reset machine is one that was just reset, and a reset establishes the invariant. -/
theorem resetMeetsTheInvariant : Obligations.ResetMeetsTheInvariant := by
  unfold Obligations.ResetMeetsTheInvariant
  rw [← State.hostReset_reset]
  exact State.reset.inv_hostReset

@[simp] theorem State.readByte_hostReset (s : State) (a : Nat) : s.hostReset.readByte a = resetByte s.config a := rfl

theorem resetByte_of_lt (c : Config) (a : Fin 80) : resetByte c a.val = c.font[a] := dif_pos a.isLt

theorem resetByte_of_le (c : Config) {a : Nat} (h : 80 ≤ a) : resetByte c a = 0#8 := dif_neg (Nat.not_lt.mpr h)

@[simp] theorem State.reg_hostReset (s : State) (r : Reg) : s.hostReset.reg r = 0#8 := Vector.getElem_replicate _

@[simp] theorem State.stack_hostReset (s : State) (k : Fin 16) : s.hostReset.stack[k] = 0#16 :=
  Vector.getElem_replicate _

@[simp] theorem State.keypad_hostReset (s : State) (k : Fin 16) : s.hostReset.keypad[k] = false :=
  Vector.getElem_replicate _

@[simp] theorem State.pixel_hostReset (s : State) (p : Nat) : s.hostReset.pixel p = false := BitVec.getLsbD_zero

/-- Settles O53: the indexed elements by their laws, the others by the reset state's own fields. -/
theorem hostResetGivesTheResetValues : Obligations.HostResetGivesTheResetValues := fun s =>
  ⟨s.reg_hostReset, rfl, rfl, s.stack_hostReset, rfl, rfl, rfl, s.pixel_hostReset, s.keypad_hostReset, rfl, rfl,
    fun a => (s.readByte_hostReset a).trans (resetByte_of_lt s.config a),
    fun a h _ => (s.readByte_hostReset a).trans (resetByte_of_le s.config h), rfl⟩

/-! ## Program load (R212) -/

/-- The machine after a load of `bytes` that fits. -/
def State.loaded (s : State) (bytes : List Byte) : State :=
  s.hostReset.setMemory (Memory.writeAll s.config (fun k => programBase + k) 0 bytes s.hostReset.memory)

theorem loadProgram_eq_loaded (s : State) {bytes : List Byte} (h : bytes.length ≤ 3584) :
    hostOp (.loadProgram bytes) s = .next (s.loaded bytes) := loadProgram_fits s h

/-- The addresses `programBase + k` are all different, so each byte of the program stays as it was written. -/
theorem State.readByte_loaded (s : State) {bytes : List Byte} {k : Nat} (h : k < bytes.length) :
    (s.loaded bytes).readByte (0x200 + k) = bytes[k] := by
  have hread := Memory.read_writeAll_same s.config (fun k => programBase + k) bytes 0 s.hostReset.memory k h
    fun _ _ _ heq => Nat.add_left_cancel heq
  rw [Nat.zero_add] at hread
  exact hread

theorem State.frame_loaded (s : State) (bytes : List Byte) :
    Frame (fun c => ∃ k, k < bytes.length ∧ c = .byte (0x200 + k)) s.hostReset (s.loaded bytes) := by
  intro c hc
  cases c with
  | byte a =>
    exact Memory.read_writeAll_other _ _ _ _ _ _ fun k _ hk ha => hc ⟨k, by omega, congrArg Component.byte ha⟩
  | _ => rfl

/-- Settles O54: a program that fits is written, at different addresses, over the memory of the reset machine. -/
theorem loadProgramResetsAndCopies : Obligations.LoadProgramResetsAndCopies :=
  ⟨fun _ s hlong => loadProgram_too_large s hlong, fun bytes s hfits =>
    ⟨s.loaded bytes, loadProgram_eq_loaded s hfits, fun _ => s.readByte_loaded, rfl, s.frame_loaded bytes⟩⟩

/-! ## A failed load in a run (R213; log entries 12 and 17) -/

/-- A run depends on its last events only through the runs they make. -/
theorem runEvents_append_congr {es₁ es₂ : List Event} (h : ∀ s, runEvents es₁ s = runEvents es₂ s) (es : List Event)
    (s : State) : runEvents (es ++ es₁) s = runEvents (es ++ es₂) s := by
  induction es generalizing s with
  | nil => exact h s
  | cons e es ih => simp only [List.cons_append, runEvents, ih]

theorem runEvents_failed_load {bytes : List Byte} (h : 3584 < bytes.length) (es : List Event) (s : State) :
    runEvents (.host (.loadProgram bytes) :: es) s = runEvents es s := by
  simp only [runEvents, runEvent, hostOp, loadProgram_too_large s h]

/-- Settles O59: the failed load drops out of the run that begins with it, and so out of every run that reaches it. -/
theorem failedLoadLeavesTheRunAsItWas : Obligations.FailedLoadLeavesTheRunAsItWas := fun _ es es' s hlong =>
  runEvents_append_congr (runEvents_failed_load hlong es') es s

/-! ## Idle states (R220 a) -/

/-- A jump to the address it stands at changes nothing, the program counter included. -/
theorem complete_jump_self {nnn : Addr} {s : State} (h : nnn.toNat = s.pc.toNat) :
    complete (.jump (nnn.setWidth 16)) s = .next s := by
  have htarget : nnn.setWidth 16 = s.pc :=
    BitVec.eq_of_toNat_eq ((BitVec.toNat_setWidth_of_le (by omega)).trans h)
  rw [htarget]
  rfl

/-- Settles O57: the word of an Idle state is JP or SYS to its own address. -/
theorem idleStatesStayAsTheyAre : Obligations.IdleStatesStayAsTheyAre := by
  rintro s ⟨hw, hp, nnn, hself, hjp | hsys⟩
  · rw [step_of_fetch hw hp, (decodeWord_eq_iff (i := .jp nnn) rfl).mpr hjp]
    exact complete_jump_self hself
  · rw [step_of_fetch hw hp, decodeWord_eq_sys_iff.mpr hsys]
    exact complete_jump_self hself

end Sys2Proof.Machine
end
